-- ==== Sys2Proof/Word.lean ====
section
/-! DEFINITION. The two word types of the unit: a byte (R6) and the 40-bit command word (R39). -/

namespace Sys2Proof

/-- A byte is 8 bits (R6): a bus address, a register address, a data byte. -/
abbrev Byte := BitVec 8

/-- Every command is one 40-bit word `cmd[39:0]` (R39). -/
abbrev Word := BitVec 40

end Sys2Proof
end

