-- ==== Sys2Proof/Config.lean ====
section
/-! DEFINITION. What the spec leaves open: the OPEN parameter `BUS_CLOCK_HZ` (R5, D13) and the values no rule
constrains. Each is a constant without a body, so nothing can be proved about its value. The parameters whose
values the spec gives stand in `Machine/Params.lean`. -/

namespace Sys2Proof

/-- `BUS_CLOCK_HZ`, OPEN (R5, D13): the rate `BEGIN` passes to `SetClock`, 32 bits wide as `t_data` is (R38). -/
opaque Config.busClockHz : BitVec 32

/-- The byte a `Read` returns when the state supplies no answer: a draw (R31, U2; log 2). -/
opaque Config.freeReadByte : Nat → Byte

/-- `cmd_q` while the unit is idle after a command: unspecified (R13, U3; log 3). -/
opaque Config.freeCommand : Nat → Word

/-- `rsp_status` while `rsp_valid = 0`: unspecified (R22, U3; log 3). -/
opaque Config.freeRspStatus : Nat → BitVec 2

/-- `rsp_data` while `rsp_valid = 0`: unspecified (R22, U3; log 3). -/
opaque Config.freeRspData : Nat → Byte

end Sys2Proof
end

