-- ==== Sys2Proof/Machine/State.lean ====
section
/-! DEFINITION. The state of the unit (R10 to R15, R22, R38), the environment's inputs it reads (R106), and the
record of what it has done (R107), all as plain data; the state after hardware reset; the reasons a step can stop. -/

namespace Sys2Proof.Machine

/-- The facade's stage (R11): three values, the bit pattern 3 being unreachable (U15). -/
inductive Stage
  | uninitialized
  | sleeping
  | running
  deriving DecidableEq, Repr

/-- The response status (R47). -/
inductive Status
  | ok
  | fail
  | illegal
  deriving DecidableEq, Repr

/-- What the sequencer does next: a bus primitive to hand to the transport, or a delay (R8). -/
inductive BusOp
  | setClock (hz : BitVec 32)
  | beginTx (addr : Byte)
  | write (b : Byte)
  | read
  | endTx
  | wait (us : Nat)
  deriving DecidableEq, Repr

/-- A bus event that has completed (R8); a `Read` carries the byte the transport answered. -/
inductive Event
  | setClock (hz : BitVec 32)
  | beginTx (addr : Byte)
  | write (b : Byte)
  | read (b : Byte)
  | endTx
  | wait (us : Nat)
  deriving DecidableEq, Repr

/-- A response word (R47). -/
structure Response where
  status : Status
  data : Byte
  deriving DecidableEq, Repr

/-- One entry of a command's event list (R76): the event, the stage written when it completes, and whether it
is the last event of a channel write after which `CLEAR`'s channel counter advances (R14). -/
structure MicroOp where
  op : BusOp
  stageAfter : Option Stage := none
  nextChannel : Bool := false
  deriving DecidableEq, Repr

/-- A command as the sequencer runs it (R76, R78): its event list, the status it responds with, and whether the
response data is the byte read (`READ`) or 0x00 (R47). -/
structure Plan where
  ops : List MicroOp
  status : Status
  answersRead : Bool := false
  deriving DecidableEq, Repr

structure State where
  /-- `stage`, the facade's stage (R11). -/
  stage : Stage
  /-- `busy` (R13). -/
  busy : Bool
  /-- `cmd_q`, the latched command word (R13). -/
  cmdQ : Word
  /-- `step`, the sequencer's position inside the current command, 6 bits (R14). -/
  seqStep : BitVec 6
  /-- `chan`, the channel counter that goes with `step`, 4 bits (R14). -/
  chan : BitVec 4
  /-- `timer` (R15): idle, or loaded with the microseconds of the current `Wait`. -/
  timer : Option Nat
  /-- The stage at acceptance, which the wake write of `SETFREQ` restores (R57, R58; log 5). -/
  entryStage : Stage
  /-- The byte sampled at the last `Read` handover (R38), kept for the response (log 6). -/
  readByte : Byte
  /-- `rsp_valid` (R38). -/
  rspValid : Bool
  /-- `rsp_status[1:0]` (R38, R47). -/
  rspStatus : BitVec 2
  /-- `rsp_data[7:0]` (R38, R47). -/
  rspData : Byte
  /-- The bus address of the open transaction, if one is open (R8, R22). -/
  openTx : Option Byte
  /-- INPUT, command port: the words the host presents from now on, in order (R38, R106, R107). -/
  host : List Word
  /-- INPUT: the hardware reset line (R38, R93). -/
  resetIn : Bool
  /-- INPUT, `t_ready`: how many more events the transport will accept; `none`: every one (R92, R106; log 4). -/
  tReady : Option Nat
  /-- INPUT, `t_rdata`: the bytes the transport will answer the coming `Read`s with (R9, R31). -/
  answers : List Byte
  /-- RECORD: the events emitted so far, oldest first (R8, R32). -/
  trace : List Event
  /-- RECORD: the responses given so far, oldest first (R107). -/
  responses : List Response
  /-- The MODEL's counter of free values taken so far (log 2, log 3). -/
  freeIndex : Nat
  deriving DecidableEq, Repr

/-- After hardware reset (R22, R93): idle, `Uninitialized`, `step`, `chan` 0, timer idle, no response, no transaction
open. The unspecified registers `cmd_q`, `rsp_status`, `rsp_data` and the model's own `entryStage`, `readByte` hold
the values of log 7; the environment presents no command and accepts every event (log 4, log 8). -/
def State.reset : State where
  stage := .uninitialized
  busy := false
  cmdQ := 0
  seqStep := 0
  chan := 0
  timer := none
  entryStage := .uninitialized
  readByte := 0
  rspValid := false
  rspStatus := 0
  rspData := 0
  openTx := none
  host := []
  resetIn := false
  tReady := none
  answers := []
  trace := []
  responses := []
  freeIndex := 0

/-- The unit has no faults: an error is a response with a failing status (R79, R86) and a stalled transport is a
stuck state, not a fault (R92). Nothing raises a fault. -/
inductive Fault
  deriving DecidableEq, Repr

/-- Why a step has no meaning in the model. -/
inductive Refusal
  /-- Raised by `exec`'s arm of a command that has no meaning yet (no arm does so). Safe. -/
  | notModelled (mnemonic : String)
  /-- Raised by hardware reset asserted while the unit is busy: a model refuses this case (R103, U9). Safe. -/
  | resetWhileBusy
  deriving DecidableEq, Repr

end Sys2Proof.Machine
end

