-- ==== Sys2Proof/Machine/Params.lean ====
section
/-! DEFINITION. The constants of the wire contract (R4) and the parameters whose values the spec decides (R5). -/

namespace Sys2Proof.Machine

/-- `ADDR_DEFAULT`, "default device address" (R4). -/
def addrDefault : Byte := 0x40

/-- `ADDR_BROADCAST`, "broadcast/all-call address" (R4). -/
def addrBroadcast : Byte := 0x70

/-- `REG_MODE1` (R4). -/
def regMode1 : Byte := 0x00

/-- `REG_MODE2` (R4). -/
def regMode2 : Byte := 0x01

/-- `REG_PRESCALE` (R4). -/
def regPrescale : Byte := 0xFE

/-- `F_OSC` in Hz (R4). -/
def fOsc : Nat := 25000000

/-- `PWM_STEPS` (R4). -/
def pwmSteps : Nat := 4096

/-- `F_MIN` in Hz (R4). -/
def fMin : Nat := 24

/-- `F_MAX` in Hz (R4). -/
def fMax : Nat := 1526

/-- One hertz as a raw frequency operand: 16 fraction bits (`FREQ_FORMAT`, R5, R40). -/
def rawPerHz : Nat := 65536

/-- `N_CHANNELS` (R4). -/
def nChannels : Nat := 16

/-- `VALUE_MAX` (R4). -/
def valueMax : Nat := 4095

/-- `FULL_BIT`, bit 12 of a field (R4). -/
def fullBit : Nat := 4096

/-- `MODE1_NORMAL` (R5, R20, D9): auto-increment set, sleep clear (log 9). -/
def mode1Normal : Byte := 0x20

/-- `MODE1_SLEEP` (R5, R20, D10): `MODE1_NORMAL` with the sleep bit set (log 9). -/
def mode1Sleep : Byte := 0x30

/-- `MODE2_DEFAULT` (R5, R20, D11): totem-pole output (log 9). -/
def mode2Default : Byte := 0x04

/-- `RESET_PATTERN` (R5, D12) (log 9). -/
def resetPattern : Byte := 0x06

/-- `T_SETTLE1_US` (R4, D14): taken at its lower bound. -/
def settle1Us : Nat := 500

/-- `T_SETTLE2_US` (R5, D14). -/
def settle2Us : Nat := 500

end Sys2Proof.Machine
end

