-- ==== Sys2Proof/Machine/Operands.lean ====
section
/-! DEFINITION. The operand computations: saturation (R6, R53, R61, R62, R82), byte extraction (R6) and the register
map's channel table (R64). Operands are values of the command word; none names a register (R17). -/

namespace Sys2Proof.Machine

/-- `clamp(v, lo, hi)`: saturating, never wrapping (R6). -/
def clamp (v lo hi : Int) : Int := if v < lo then lo else if hi < v then hi else v

/-- `lo8(v)` (R6). -/
def lo8 (v : Nat) : Byte := BitVec.ofNat 8 (v % 256)

/-- `hi8(v)` (R6). -/
def hi8 (v : Nat) : Byte := BitVec.ofNat 8 (v / 256 % 256)

/-- The channel clamp, to 0..15 (R61). -/
def clampChannel (chan : Int) : Nat := (clamp chan 0 15).toNat

/-- The value clamp, to 0..4095 (R62). -/
def clampValue (value : Int) : Nat := (clamp value 0 valueMax).toNat

/-- `CH_BASE[c] = 0x06 + 4*c` for a clamped channel (R4, R64). -/
def chBase (c : Nat) : Byte := BitVec.ofNat 8 (0x06 + 4 * c)

/-- The four classes of a requested frequency (R53). -/
inductive FreqClass
  | blank
  | low
  | inRange
  | high
  deriving DecidableEq, Repr

/-- The class of the raw operand `F` (R53): blank iff `F <= 0`, low iff `0 < F < 24 Hz`, high iff above 1526 Hz. -/
def freqClass (freq : Int) : FreqClass :=
  if freq ≤ 0 then .blank
  else if freq < fMin * rawPerHz then .low
  else if freq ≤ fMax * rawPerHz then .inRange
  else .high

/-- The effective raw frequency `Fc` of a positive operand: its clamp to 24..1526 Hz (R53). -/
def clampFreq (freq : Int) : Nat := (clamp freq (fMin * rawPerHz) (fMax * rawPerHz)).toNat

end Sys2Proof.Machine
end

