-- ==== Sys2Proof/Machine/Flags.lean ====
section
/-! DEFINITION. The unit has no flags and no condition codes (R17); the only result a command returns is its response
word. This file holds the two codes a host can see: the status (R47) and the stage (R11). -/

namespace Sys2Proof.Machine

/-- `rsp_status`: 0 = OK, 1 = FAIL, 2 = ILLEGAL, 3 never produced (R47). -/
def Status.code : Status → BitVec 2
  | .ok => 0
  | .fail => 1
  | .illegal => 2

/-- The encoding of `stage` (R11): 3 is never written. -/
def Stage.code : Stage → BitVec 2
  | .uninitialized => 0
  | .sleeping => 1
  | .running => 2

end Sys2Proof.Machine
end

