-- ==== Sys2Proof/Machine/Ops.lean ====
section
/-! DEFINITION. The named operations of the sequencer: the bus primitives (R7, R26, R31), one event at a time (R76),
a whole event list (R9), acceptance (R13, R38), the response (R47, R78), what an error does in place of trap entry
(R86), and hardware reset (R93, R103). -/

namespace Sys2Proof.Machine

/-! ### Event lists -/

/-- One event with nothing attached to it. -/
def plain (op : BusOp) : MicroOp := { op := op }

/-- A write transaction whose closing `End` is `last`: `Begin(a), Write(r), Write(d0), ..., End` (R7, R26). -/
def regWriteEnding (a r : Byte) (data : List Byte) (last : MicroOp) : List MicroOp :=
  plain (.beginTx a) :: plain (.write r) :: (data.map (fun d => plain (.write d)) ++ [last])

/-- `RegWrite(a, r, [d0, ...])` (R26). -/
def regWrite (a r : Byte) (data : List Byte) : List MicroOp :=
  regWriteEnding a r data (plain .endTx)

/-- `RegWrite` followed by `stage <- st`, written when its `End` completes (R57, R72, R76). -/
def regWriteThenStage (a r : Byte) (data : List Byte) (st : Stage) : List MicroOp :=
  regWriteEnding a r data { op := .endTx, stageAfter := some st }

/-- `RegRead(a, r)`: a pointer write, then a one-byte read transaction (R31). -/
def regRead (a r : Byte) : List MicroOp :=
  [plain (.beginTx a), plain (.write r), plain .endTx, plain (.beginTx a), plain .read, plain .endTx]

/-- What an error does in place of trap entry (R86): nothing is emitted, the status goes into the response. -/
def errorPlan (st : Status) : Plan := { ops := [], status := st }

/-- A command that responds `(OK, 0x00)` after its events (R78). -/
def okPlan (ops : List MicroOp) : Plan := { ops := ops, status := .ok }

/-! ### One event -/

/-- The event an operation becomes when it completes, `b` being the byte the transport answers a `Read` with (R8). -/
def BusOp.event (op : BusOp) (b : Byte) : Event :=
  match op with
  | .setClock hz => .setClock hz
  | .beginTx a => .beginTx a
  | .write d => .write d
  | .read => .read b
  | .endTx => .endTx
  | .wait us => .wait us

/-- Is the operation handed to the transport? A `Wait` is not (R38). -/
def BusOp.onBus : BusOp → Bool
  | .wait _ => false
  | .setClock _ => true
  | .beginTx _ => true
  | .write _ => true
  | .read => true
  | .endTx => true

/-- `emit e` (R7): the event joins the trace. -/
def State.emit (s : State) (e : Event) : State := { s with trace := s.trace ++ [e] }

/-- The transport accepts one event (R38): it will accept one fewer from now on (R92; log 4). -/
def State.useTransport (s : State) : State := { s with tReady := s.tReady.map (fun n => n - 1) }

/-- The byte the transport answers the next `Read` with: any byte (R31, U2; log 2). -/
def State.nextAnswer (s : State) : Byte :=
  match s.answers with
  | b :: _ => b
  | [] => Config.freeReadByte s.freeIndex

/-- `t_rdata` is sampled at the handover of a `Read` (R38). -/
def State.sampleRead (s : State) : State :=
  { s with readByte := s.nextAnswer, answers := s.answers.tail, freeIndex := s.freeIndex + 1 }

/-- A transaction is opened or closed (R8). -/
def State.setOpenTx (s : State) (a : Option Byte) : State := { s with openTx := a }

/-- The delay timer is loaded, or becomes idle (R15). -/
def State.setTimer (s : State) (t : Option Nat) : State := { s with timer := t }

/-- The completion of an event (R8, R76): a bus event is handed to the transport, a `Wait` lets its timer run out. -/
def completeOp (op : BusOp) (s : State) : State :=
  match op with
  | .setClock hz => s.useTransport.emit (.setClock hz)
  | .beginTx a => (s.useTransport.emit (.beginTx a)).setOpenTx (some a)
  | .write d => s.useTransport.emit (.write d)
  | .read => (s.useTransport.emit (.read s.nextAnswer)).sampleRead
  | .endTx => (s.useTransport.emit .endTx).setOpenTx none
  | .wait us => (s.emit (.wait us)).setTimer none

/-- The stage write attached to an event, if any (R12, R76). -/
def State.writeStage (s : State) (st : Option Stage) : State := { s with stage := st.getD s.stage }

/-- `step` increases by 1; after the last event of a channel write of `CLEAR` but the sixteenth, `step` starts
again at 0 and `chan` increases by 1 (R14; log 10). -/
def State.advance (s : State) (nextChannel : Bool) : State :=
  { s with
    seqStep := if nextChannel then 0 else s.seqStep + 1
    chan := if nextChannel then s.chan + 1 else s.chan }

/-- An event completes: its effect, its stage write, and the advance of the position (R76). -/
def complete (m : MicroOp) (s : State) : State :=
  ((completeOp m.op s).writeStage m.stageAfter).advance m.nextChannel

/-- The transport does not accept the event, now or later (R92). -/
def State.stalledOn (s : State) (m : MicroOp) : Bool := m.op.onBus && decide (s.tReady = some 0)

/-! ### A whole command -/

/-- The response (R38, R47, R78): `rsp_valid`, status and data are driven, `busy` returns to 0, `step` and `chan`
to 0 (R14), and `cmd_q` is unspecified from now on (R13; log 3). -/
def respond (p : Plan) (s : State) : State :=
  let data := if p.answersRead then s.readByte else 0x00
  { s with
    busy := false
    cmdQ := Config.freeCommand s.freeIndex
    seqStep := 0
    chan := 0
    timer := none
    rspValid := true
    rspStatus := p.status.code
    rspData := data
    responses := s.responses ++ [{ status := p.status, data := data }]
    freeIndex := s.freeIndex + 1 }

/-- The events of `ops` one after another, each completing before the next, then the response (R9, R76). If the
transport never accepts an event the unit stays busy at it, with no response (R92). -/
def perform (p : Plan) (ops : List MicroOp) (s : State) : State :=
  match ops with
  | [] => respond p s
  | m :: rest => if s.stalledOn m then s else perform p rest (complete m s)

/-- A command starts: `busy` becomes 1, the position is 0, the timer idle (R13, R14); the stage at acceptance is
kept for the wake write (R57, R58; log 5). -/
def State.startCommand (s : State) : State :=
  { s with busy := true, seqStep := 0, chan := 0, timer := none, entryStage := s.stage }

/-- A command as one big step (R9): from acceptance to response, or to the event the transport never accepts. -/
def runPlan (p : Plan) (s : State) : State := perform p p.ops s.startCommand

/-! ### Acceptance, idling, reset -/

/-- Outside the response cycle `rsp_valid = 0` and the response fields are unspecified (R38, U3; log 3). -/
def State.dropResponse (s : State) : State :=
  { s with
    rspValid := false
    rspStatus := Config.freeRspStatus s.freeIndex
    rspData := Config.freeRspData s.freeIndex
    freeIndex := s.freeIndex + 1 }

/-- The host's next word is latched into `cmd_q` (R13, R38). -/
def State.latch (s : State) (w : Word) (rest : List Word) : State := { s with cmdQ := w, host := rest }

/-- The command port's handover: the unit is idle and the host presents `w` (R38). -/
def acceptWord (w : Word) (rest : List Word) (s : State) : State := s.dropResponse.latch w rest

/-- A cycle in which the unit is idle and no command is presented: it does nothing (R93), and `cmd_q` stays
unspecified (R13; log 3). -/
def idleCycle (s : State) : State :=
  { s.dropResponse with cmdQ := Config.freeCommand s.freeIndex }

/-- The unit's own state becomes that of hardware reset; no bus event is emitted (R93, R94). What the environment
does next, the record of what has happened and the model's counter are not the unit's state and stay. -/
def State.resetUnit (s : State) : State :=
  { State.reset with
    host := s.host
    resetIn := false
    tReady := s.tReady
    answers := s.answers
    trace := s.trace
    responses := s.responses
    freeIndex := s.freeIndex }

/-- Hardware reset (R93): refused while the unit is busy (R103, U9). -/
def hardwareReset (s : State) : Host.Outcome State Fault Refusal :=
  if s.busy then .refused .resetWhileBusy else .next s.resetUnit

/-- The command port as `step` and the small steps fetch from it: the word the host presents next, and the ones
after it (R38, R107). -/
def State.fetch (s : State) : Option (Word × List Word) :=
  match s.host with
  | [] => none
  | w :: rest => some (w, rest)

/-- The state in which the unit is idle, not in reset, and the host presents `w` next (R38): the command's word
stands where the next command comes from (log 8). -/
def State.present (s : State) (w : Word) : State :=
  { s with host := w :: s.host, busy := false, resetIn := false }

end Sys2Proof.Machine
end

