-- ==== Sys2Proof/Machine/DutyEncoder.lean ====
section
/-! DEFINITION. The Channel Encoder (R61 to R68): fields, payload, channel write, `ClearAll` (R73), and `AWRITE`. -/

namespace Sys2Proof.Machine

/-- `Fields(v)` (R63): the on-field and the off-field of a clamped value. -/
def fields (v : Nat) : Nat × Nat :=
  if v = valueMax then (fullBit, 0) else if v = 0 then (0, fullBit) else (0, v)

/-- The four payload bytes, each field low byte first, the on-field first (R28, R48). -/
def packFields (on off : Nat) : List Byte := [lo8 on, hi8 on, lo8 off, hi8 off]

/-- The payload of a clamped value (R49). -/
def payload (v : Nat) : List Byte := packFields (fields v).1 (fields v).2

/-- `ChannelWrite(a, c, v)`: one transaction of five `Write`s (R65). -/
def channelWrite (a : Byte) (c v : Nat) : List MicroOp := regWrite a (chBase c) (payload v)

/-- The same seven events as one of the sixteen writes of `ClearAll`; after each but the last the channel counter
advances (R14, R73). -/
def clearChannel (c : Nat) : List MicroOp :=
  regWriteEnding addrDefault (chBase c) (payload 0) { op := .endTx, nextChannel := decide (c + 1 < nChannels) }

/-- `ClearAll()`: the sixteen channels in ascending order (R73). -/
def clearAll : List MicroOp := (List.range nChannels).flatMap clearChannel

/-- The duty cycle the unit asks for, as positions out of 4096: `v`, but 4096 for the full-on value (R67). -/
def dutyPositions (v : Nat) : Nat := if v = valueMax then pwmSteps else v

def awritePlan (addr : Byte) (chan value : Int) : Plan :=
  okPlan (channelWrite addr (clampChannel chan) (clampValue value))

/-- `AWRITE` (R66). -/
def execAwrite (addr : Byte) (chan value : Int) (s : State) : Host.Outcome State Fault Refusal :=
  .next (runPlan (awritePlan addr chan value) s)

end Sys2Proof.Machine
end

