-- ==== Sys2Proof/Machine/Prescale.lean ====
section
/-! DEFINITION. The Frequency Programmer (R53 to R60): prescale, the sleep/wake sequence, and `SETFREQ`. -/

namespace Sys2Proof.Machine

/-- `25 000 000 / (4096 * f)` is `quotientNum / Fc` for the raw frequency `Fc` (R55). -/
def quotientNum : Nat := fOsc * rawPerHz / pwmSteps

/-- The prescale of an effective raw frequency: the exact quotient to the nearest integer, a half going up (R54, R55). -/
def prescale (fc : Nat) : Nat := (2 * quotientNum + fc) / (2 * fc)

/-- `FreqProgram(fc, s1)`: the five steps, `s1` being the stage on waking (R57). -/
def freqProgram (fc : Nat) (s1 : Stage) : List MicroOp :=
  regWriteThenStage addrDefault regMode1 [mode1Sleep] .sleeping
    ++ [plain (.wait settle1Us)]
    ++ regWrite addrDefault regPrescale [BitVec.ofNat 8 (prescale fc)]
    ++ regWriteThenStage addrDefault regMode1 [mode1Normal] s1
    ++ [plain (.wait settle2Us)]

/-- `SETFREQ` accepted in the stage `entry` (R58): blank all outputs when `f <= 0` (R59), else program the clamped
frequency and wake into the entry stage. -/
def setfreqPlan (freq : Int) (entry : Stage) : Plan :=
  match freqClass freq with
  | .blank => okPlan clearAll
  | .low => okPlan (freqProgram (clampFreq freq) entry)
  | .inRange => okPlan (freqProgram (clampFreq freq) entry)
  | .high => okPlan (freqProgram (clampFreq freq) entry)

/-- `SETFREQ` (R58). -/
def execSetfreq (freq : Int) (s : State) : Host.Outcome State Fault Refusal :=
  .next (runPlan (setfreqPlan freq s.stage) s)

end Sys2Proof.Machine
end

