-- ==== Sys2Proof/Machine/Facade.lean ====
section
/-! DEFINITION. The Driver Facade (R69 to R75): `BEGIN`, `SETMODE`, `RESET`, `CLEAR`, `READ`, and the response to an
illegal opcode (R81). -/

namespace Sys2Proof.Machine

/-- `BEGIN`: clock, mode-1, mode-2, then the maximum frequency, waking into Running (R70). -/
def beginPlan : Plan :=
  okPlan (plain (.setClock Config.busClockHz)
    :: (regWrite addrDefault regMode1 [mode1Normal]
      ++ regWrite addrDefault regMode2 [mode2Default]
      ++ freqProgram (fMax * rawPerHz) .running))

/-- `BEGIN` (R70). -/
def execBegin (s : State) : Host.Outcome State Fault Refusal := .next (runPlan beginPlan s)

/-- `SETMODE`: selector 1 writes mode-1, 2 mode-2, any other is the invalid parameter (R71, R80). -/
def setmodePlan (sel val : Byte) : Plan :=
  if sel = 1 then okPlan (regWrite addrDefault regMode1 [val])
  else if sel = 2 then okPlan (regWrite addrDefault regMode2 [val])
  else errorPlan .fail

/-- `SETMODE` (R71). -/
def execSetmode (sel val : Byte) (s : State) : Host.Outcome State Fault Refusal :=
  .next (runPlan (setmodePlan sel val) s)

/-- `RESET`: one broadcast write, then `stage <- Uninitialized` (R72). -/
def resetPlan : Plan :=
  okPlan (regWriteThenStage addrBroadcast regMode1 [resetPattern] .uninitialized)

/-- `RESET` (R72). -/
def execReset (s : State) : Host.Outcome State Fault Refusal := .next (runPlan resetPlan s)

/-- `CLEAR`: duty 0 on all sixteen channels (R73). -/
def clearPlan : Plan := okPlan clearAll

/-- `CLEAR` (R73). -/
def execClear (s : State) : Host.Outcome State Fault Refusal := .next (runPlan clearPlan s)

/-- `READ`: the byte read is the response data (R74). -/
def readPlan (addr reg : Byte) : Plan :=
  { ops := regRead addr reg, status := .ok, answersRead := true }

/-- `READ` (R74). -/
def execRead (addr reg : Byte) (s : State) : Host.Outcome State Fault Refusal :=
  .next (runPlan (readPlan addr reg) s)

/-- An illegal opcode: no event, status ILLEGAL (R81). -/
def illegalPlan : Plan := errorPlan .illegal

/-- The response to an accepted word whose opcode is illegal (R81). -/
def respondIllegal (s : State) : Host.Outcome State Fault Refusal := .next (runPlan illegalPlan s)

end Sys2Proof.Machine
end

