-- ==== Sys2Proof/Syntax.lean ====
section
/-! DEFINITION. The seven commands of the unit (R2, R44), one constructor per row of the opcode table.
Operands are the values of R45: signed operands are integers, the others bytes. -/

namespace Sys2Proof

inductive Instr
  /-- `BEGIN` (R70), format N. -/
  | begin
  /-- `SETMODE sel, val` (R71), format M: the selector is an unsigned byte, 254 of its values invalid (R41). -/
  | setmode (sel val : Byte)
  /-- `SETFREQ` (R58), format F: the operand is the integer `F = signed_32(freq)`, the frequency is `F / 65536` Hz (R40). -/
  | setfreq (freq : Int)
  /-- `RESET` (R72), format N. -/
  | reset
  /-- `CLEAR` (R73), format N. -/
  | clear
  /-- `AWRITE ch, val, addr` (R66), format W: bus address, signed channel index, signed duty value (R42). -/
  | awrite (addr : Byte) (chan value : Int)
  /-- `READ addr, reg` (R74), format R. -/
  | read (addr reg : Byte)
  deriving DecidableEq, Repr

end Sys2Proof
end

