-- ==== Sys2Proof/Machine/Dispatch.lean ====
section
/-! DEFINITION. One arm per command (R44): the meaning of an accepted command as one big step (R9). -/

namespace Sys2Proof.Machine

def exec (i : Instr) (s : State) : Host.Outcome State Fault Refusal :=
  match i with
  | .begin => Sys2Proof.Machine.execBegin s
  | .setmode sel val => Sys2Proof.Machine.execSetmode sel val s
  | .setfreq freq => Sys2Proof.Machine.execSetfreq freq s
  | .reset => Sys2Proof.Machine.execReset s
  | .clear => Sys2Proof.Machine.execClear s
  | .awrite addr chan value => Sys2Proof.Machine.execAwrite addr chan value s
  | .read addr reg => Sys2Proof.Machine.execRead addr reg s

end Sys2Proof.Machine
end

