-- ==== Sys2Proof/WellFormed.lean ====
section
/-! DEFINITION. Which commands can be written as a command word: each signed operand fits its field
(R40, R42; the ranges the assembler accepts, R50). Every other operand is a byte and always fits. -/

namespace Sys2Proof

/-- `freq * 65536` is in `-2^31 .. 2^31 - 1` (R40, R50). -/
def freqFits (freq : Int) : Bool := decide (-2147483648 ≤ freq) && decide (freq ≤ 2147483647)

/-- The channel operand is in `-128 .. 127` (R42). -/
def chanFits (chan : Int) : Bool := decide (-128 ≤ chan) && decide (chan ≤ 127)

/-- The duty operand is in `-32768 .. 32767` (R42). -/
def valueFits (value : Int) : Bool := decide (-32768 ≤ value) && decide (value ≤ 32767)

/-- The command has a command word. -/
def Instr.wellFormed : Instr → Bool
  | .begin => true
  | .setmode _ _ => true
  | .setfreq freq => freqFits freq
  | .reset => true
  | .clear => true
  | .awrite _ chan value => chanFits chan && valueFits value
  | .read _ _ => true

end Sys2Proof
end

