-- ==== Sys2Proof/Decode.lean ====
section
/-! DEFINITION. The decoder (R39 to R46), total on every 40-bit word, and the encoder written from the same
tables. A decoder needs the opcode alone (R44); ignored bits never change the result (R46). -/

namespace Sys2Proof

/-- What a command word says: one of the seven commands, or an illegal opcode, rejected with its opcode byte (R46, R81). -/
inductive Decoded
  | instr (i : Instr)
  | illegal (op : Byte)
  deriving DecidableEq, Repr

/-- `op = cmd[39:32]` (R39). -/
def opField (w : Word) : Byte := w.extractLsb' 32 8

/-- Format M (R41): `sel = cmd[15:8]`, `val = cmd[7:0]`. -/
def decodeM (w : Word) : Instr := .setmode (w.extractLsb' 8 8) (w.extractLsb' 0 8)

/-- Format F (R40): the operand is `signed_32(cmd[31:0])`. -/
def decodeF (w : Word) : Instr := .setfreq (w.extractLsb' 0 32).toInt

/-- Format W (R42, R45): `addr = cmd[31:24]`; `chan` and `value` are sign-extended, never zero-extended. -/
def decodeW (w : Word) : Instr :=
  .awrite (w.extractLsb' 24 8) (w.extractLsb' 16 8).toInt (w.extractLsb' 0 16).toInt

/-- Format R (R43): `addr = cmd[15:8]`, `reg = cmd[7:0]`. -/
def decodeR (w : Word) : Instr := .read (w.extractLsb' 8 8) (w.extractLsb' 0 8)

/-- The opcode map (R44); every other opcode is illegal (R46). -/
def decode (w : Word) : Decoded :=
  match (opField w).toNat with
  | 0x01 => .instr .begin
  | 0x02 => .instr (decodeM w)
  | 0x03 => .instr (decodeF w)
  | 0x04 => .instr .reset
  | 0x05 => .instr .clear
  | 0x06 => .instr (decodeW w)
  | 0x07 => .instr (decodeR w)
  | _ => .illegal (opField w)

/-- The opcode byte of a command (R44). -/
def opcode : Instr → Byte
  | .begin => 0x01
  | .setmode _ _ => 0x02
  | .setfreq _ => 0x03
  | .reset => 0x04
  | .clear => 0x05
  | .awrite _ _ _ => 0x06
  | .read _ _ => 0x07

/-- The operand half `arg = cmd[31:0]` of a command word, ignored bits written as zeros (R39, R50). -/
def encodeArg : Instr → BitVec 32
  | .begin => 0
  | .setmode sel val => 0#16 ++ sel ++ val
  | .setfreq freq => BitVec.ofInt 32 freq
  | .reset => 0
  | .clear => 0
  | .awrite addr chan value => addr ++ BitVec.ofInt 8 chan ++ BitVec.ofInt 16 value
  | .read addr reg => 0#16 ++ addr ++ reg

/-- The command word of a command (R39 to R44). -/
def encode (i : Instr) : Word := opcode i ++ encodeArg i

/-- The bits of a command word that its format gives to a field; the others are don't-care (R39, R41, R43, R46). -/
def usedBits : Instr → Word
  | .begin => 0xFF00000000
  | .setmode _ _ => 0xFF0000FFFF
  | .setfreq _ => 0xFFFFFFFFFF
  | .reset => 0xFF00000000
  | .clear => 0xFF00000000
  | .awrite _ _ _ => 0xFFFFFFFFFF
  | .read _ _ => 0xFF0000FFFF

/-- The command presented on the command port is the whole 40-bit word, bit 0 its least significant bit. -/
def wordOfNat (nbits w : Nat) : Word := BitVec.ofNat 40 (w % 2 ^ nbits)

/-- The decoder on a row of the opcode table; no command word is longer than 40 bits (R39). -/
def decodeTableWord (nbits w : Nat) : Option Instr :=
  if nbits ≤ 40 then
    match decode (wordOfNat nbits w) with
    | .instr i => some i
    | .illegal _ => none
  else none

end Sys2Proof
end

