-- ==== Sys2Proof/Machine/SmallStep.lean ====
section
/-! DEFINITION. The small-step semantics (R76): one bus event per step, and the rest of a command already begun. -/

namespace Sys2Proof.Machine

/-- The event list of a command accepted in the stage `entry` (R76). -/
def planOf (i : Instr) (entry : Stage) : Plan :=
  match i with
  | .begin => beginPlan
  | .setmode sel val => setmodePlan sel val
  | .setfreq freq => setfreqPlan freq entry
  | .reset => resetPlan
  | .clear => clearPlan
  | .awrite addr chan value => awritePlan addr chan value
  | .read addr reg => readPlan addr reg

/-- The event list of an accepted command word (R76). -/
def planOfWord (w : Word) (entry : Stage) : Plan :=
  match decode w with
  | .instr i => planOf i entry
  | .illegal _ => illegalPlan

/-- The plan of the command in progress: every operand is read from `cmd_q` (R13). -/
def State.plan (s : State) : Plan := planOfWord s.cmdQ s.entryStage

/-- How many events of the current command have completed: `step`, and seven for each channel done (R14; log 10). -/
def State.position (s : State) : Nat := 7 * s.chan.toNat + s.seqStep.toNat

/-- The events of the current command that have not completed. -/
def State.remaining (s : State) : List MicroOp := s.plan.ops.drop s.position

/-- The rest of the command in progress, to its response (R9, R76). -/
def resume (s : State) : State := perform s.plan s.remaining s

/-- One event begins (R15): a `Wait` loads the timer; a bus event is presented to the transport. -/
def busyTick (s : State) : State :=
  match s.remaining with
  | [] => respond s.plan s
  | m :: _ =>
    match m.op, s.timer with
    | .wait us, none => s.setTimer (some us)
    | _, _ => if s.stalledOn m then s else complete m s

/-- The unit's smallest step (R76): reset, one event of the command in progress, acceptance, or an idle cycle. A
stalled transport leaves the state as it is (R92). -/
def tick (s : State) : Host.Outcome State Fault Refusal :=
  if s.resetIn then hardwareReset s
  else if s.busy then .next (busyTick s)
  else
    match s.fetch with
    | none => .next (idleCycle s)
    | some (w, rest) => .next (acceptWord w rest s).startCommand

/-- `n` smallest steps, stopping at a refusal. -/
def ticks (n : Nat) (s : State) : Host.Outcome State Fault Refusal :=
  match n with
  | 0 => .next s
  | k + 1 =>
    match tick s with
    | .next t => ticks k t
    | .fault r => .fault r
    | .refused r => .refused r

end Sys2Proof.Machine
end

