-- ==== Sys2Proof/Machine/Step.lean ====
section
/-! DEFINITION. One step of the machine: hardware reset, or the rest of a command in progress, or the next command the
host presents as one big step (R9), or an idle cycle. -/

namespace Sys2Proof.Machine

/-- One step. The reset line comes first (R93); a unit that is busy goes on with its command (R9, R92); an idle unit
accepts the next word (R38) and runs the command it decodes to, or responds ILLEGAL (R81); with no word it idles. -/
def step (s : State) : Host.Outcome State Fault Refusal :=
  if s.resetIn then hardwareReset s
  else if s.busy then .next (resume s)
  else
    match s.fetch with
    | none => .next (idleCycle s)
    | some (w, rest) =>
      match decode w with
      | .instr i => exec i (acceptWord w rest s)
      | .illegal _ => respondIllegal (acceptWord w rest s)

/-- `s` with a command word presented next, the unit idle and not in reset (log 8). -/
def State.withFetchWord (s : State) (nbits w : Nat) : State := s.present (wordOfNat nbits w)

end Sys2Proof.Machine
end

