-- ==== Sys2Proof/Machine/Assembler.lean ====
section
/-! DEFINITION. The assembler syntax (R50) and its one pseudo-instruction (R51): a line of source text to a command.
Nothing of the machine depends on it. -/

namespace Sys2Proof.Machine

/-- What one line of source is (R50). -/
inductive AsmLine
  | blank
  | instr (i : Instr)
  | rejected
  deriving DecidableEq, Repr

def isBlankChar (c : Char) : Bool := c == ' ' || c == '\t'

/-- The line without its comment: `;` starts one (R50). -/
def dropComment (cs : List Char) : List Char := cs.takeWhile (fun c => c != ';')

def trimLeft (cs : List Char) : List Char := cs.dropWhile isBlankChar

def trim (cs : List Char) : List Char := (trimLeft (trimLeft cs).reverse).reverse

/-- The mnemonic and the text after it. -/
def splitMnemonic (cs : List Char) : List Char × List Char :=
  (cs.takeWhile (fun c => !isBlankChar c), cs.dropWhile (fun c => !isBlankChar c))

/-- The operands, separated by commas (R50). -/
def splitCommas (cs : List Char) : List (List Char) :=
  match cs with
  | [] => [[]]
  | c :: rest =>
    match splitCommas rest with
    | [] => [[c]]
    | w :: ws => if c == ',' then [] :: w :: ws else (c :: w) :: ws

/-- The operand texts after a mnemonic; none at all where the rest of the line is blank. -/
def operandTexts (cs : List Char) : List (List Char) :=
  if (trim cs).isEmpty then [] else (splitCommas cs).map trim

def digitValue (c : Char) : Option Nat :=
  if '0' ≤ c ∧ c ≤ '9' then some (c.toNat - '0'.toNat)
  else if 'a' ≤ c ∧ c ≤ 'f' then some (c.toNat - 'a'.toNat + 10)
  else if 'A' ≤ c ∧ c ≤ 'F' then some (c.toNat - 'A'.toNat + 10)
  else none

/-- The number that digits of a base denote, after the digits already read. -/
def parseDigits (base acc : Nat) (cs : List Char) : Option Nat :=
  match cs with
  | [] => some acc
  | c :: rest =>
    match digitValue c with
    | none => none
    | some d => if d < base then parseDigits base (base * acc + d) rest else none

/-- An unsigned integer: decimal, or hexadecimal with `0x` (R50). -/
def parseNat (cs : List Char) : Option Nat :=
  match cs with
  | [] => none
  | '0' :: 'x' :: [] => none
  | '0' :: 'x' :: c :: rest => parseDigits 16 0 (c :: rest)
  | c :: rest => parseDigits 10 0 (c :: rest)

/-- An integer of a signed field, which may carry a leading `-` (R50). -/
def parseInt (cs : List Char) : Option Int :=
  match cs with
  | '-' :: rest => (parseNat rest).map (fun n : Nat => -(n : Int))
  | _ => (parseNat cs).map (fun n : Nat => (n : Int))

/-- A byte operand, 0..255 (R50). -/
def parseByte (cs : List Char) : Option Byte :=
  match parseNat cs with
  | some n => if n ≤ 255 then some (BitVec.ofNat 8 n) else none
  | none => none

/-- The digits before and after the point of a decimal literal; at least one digit before it, and at least one
after a point that is there (log 11). -/
def parseDecimal (cs : List Char) : Option (Nat × Nat) :=
  let whole := cs.takeWhile (fun c => c != '.')
  let rest := cs.dropWhile (fun c => c != '.')
  if whole.isEmpty then none
  else match rest with
    | [] => (parseDigits 10 0 whole).map (fun n => (n, 0))
    | _ :: [] => none
    | _ :: frac => (parseDigits 10 0 (whole ++ frac)).map (fun n => (n, frac.length))

/-- `hz * 65536` for the literal `digits / 10^places`, if it is an integer; never rounded (R50). -/
def scaleHz (digits places : Nat) : Option Nat :=
  if digits * rawPerHz % 10 ^ places = 0 then some (digits * rawPerHz / 10 ^ places) else none

/-- The operand of `SETFREQ`: `hz`, optionally negative, or the 32 bits `#raw` (R50). -/
def parseFreq (cs : List Char) : Option Int :=
  match cs with
  | '#' :: rest =>
    match parseNat rest with
    | some n => if n < 2 ^ 32 then some (BitVec.ofNat 32 n).toInt else none
    | none => none
  | '-' :: rest => (parseDecimal rest).bind (fun d => (scaleHz d.1 d.2).map (fun n : Nat => -(n : Int)))
  | _ => (parseDecimal cs).bind (fun d => (scaleHz d.1 d.2).map (fun n : Nat => (n : Int)))

/-- `AWRITE ch, val` assembles as `AWRITE ch, val, 0x40` (R51). -/
def awriteDefault (chan value : Int) : Instr := .awrite addrDefault chan value

/-- A command with its operands in their ranges, or a rejected line (R50). -/
def accept (i : Option Instr) : AsmLine :=
  match i with
  | some j => if j.wellFormed then .instr j else .rejected
  | none => .rejected

/-- The commands by mnemonic, upper case, and operands (R50, R51). -/
def assembleParts (mnemonic : List Char) (operands : List (List Char)) : AsmLine :=
  match mnemonic, operands with
  | ['B', 'E', 'G', 'I', 'N'], [] => .instr .begin
  | ['R', 'E', 'S', 'E', 'T'], [] => .instr .reset
  | ['C', 'L', 'E', 'A', 'R'], [] => .instr .clear
  | ['S', 'E', 'T', 'M', 'O', 'D', 'E'], [sel, val] =>
    accept ((parseByte sel).bind (fun x => (parseByte val).map (fun y => .setmode x y)))
  | ['S', 'E', 'T', 'F', 'R', 'E', 'Q'], [hz] => accept ((parseFreq hz).map (fun f => .setfreq f))
  | ['A', 'W', 'R', 'I', 'T', 'E'], [ch, val] =>
    accept ((parseInt ch).bind (fun c => (parseInt val).map (fun v => awriteDefault c v)))
  | ['A', 'W', 'R', 'I', 'T', 'E'], [ch, val, addr] =>
    accept ((parseInt ch).bind (fun c => (parseInt val).bind (fun v => (parseByte addr).map (fun a => .awrite a c v))))
  | ['R', 'E', 'A', 'D'], [addr, reg] =>
    accept ((parseByte addr).bind (fun a => (parseByte reg).map (fun r => .read a r)))
  | _, _ => .rejected

/-- One line of source (R50). -/
def assembleLine (cs : List Char) : AsmLine :=
  let line := trim (dropComment cs)
  if line.isEmpty then .blank
  else assembleParts (splitMnemonic line).1 (operandTexts (splitMnemonic line).2)

/-- The command word of a line of source, if it holds a command. -/
def assembleWord (src : String) : Option Word :=
  match assembleLine src.toList with
  | .blank => none
  | .instr i => some (encode i)
  | .rejected => none

end Sys2Proof.Machine
end

