-- ==== Sys2Proof/Machine/Observer.lean ====
section
/-! DEFINITION. What can be read off a trace: its write transactions, the register image (R37), the grammar of
transactions (R8), the lower bound of its delays (R104). The unit has no memory (R17, R23); the image is the spec's
own observer, no state of the unit and no model of a chip. -/

namespace Sys2Proof.Machine

/-- A byte map in canonical form: strictly rising addresses, an unlisted address being unwritten (R37). -/
abbrev Memory := List Host.Cell

/-- The canonical form. -/
def Memory.wf : Memory → Bool
  | [] => true
  | [_] => true
  | a :: b :: rest => decide (a.1 < b.1) && Memory.wf (b :: rest)

/-- The byte at an address, `none` where it is unwritten (R37). -/
def Memory.read (m : Memory) (k : Nat) : Option Byte :=
  match m with
  | [] => none
  | c :: rest => if c.1 = k then some c.2 else Memory.read rest k

/-- The byte at one address replaced. -/
def Memory.write (m : Memory) (k : Nat) (v : Byte) : Memory :=
  match m with
  | [] => [(k, v)]
  | c :: rest => if k < c.1 then (k, v) :: c :: rest else if c.1 = k then (k, v) :: rest else c :: Memory.write rest k v

/-- A location is a pair of a bus address and a register address (R23). -/
def location (a r : Byte) : Nat := 256 * a.toNat + r.toNat

/-- A write transaction: bus address, register address, data bytes (R26). A pointer write carries no data (R31). -/
structure RegWrite where
  addr : Byte
  reg : Byte
  data : List Byte
  deriving DecidableEq, Repr

/-- What of an open transaction the observer has seen: its address and the bytes written so far. -/
abbrev OpenTx := Option (Byte × List Byte)

/-- The open transaction after one more event. -/
def OpenTx.next (cur : OpenTx) (e : Event) : OpenTx :=
  match e with
  | .beginTx a => some (a, [])
  | .write b => cur.map (fun t => (t.1, t.2 ++ [b]))
  | .read _ => none
  | .endTx => none
  | .setClock _ => cur
  | .wait _ => cur

/-- The write transaction that an event completes, if any (R37). -/
def OpenTx.completed (cur : OpenTx) (e : Event) : List RegWrite :=
  match e, cur with
  | .endTx, some (a, r :: data) => [{ addr := a, reg := r, data := data }]
  | _, _ => []

/-- The write transactions of a trace that begins inside `cur`. -/
def regWritesFrom (cur : OpenTx) (tr : List Event) : List RegWrite :=
  match tr with
  | [] => []
  | e :: rest => cur.completed e ++ regWritesFrom (cur.next e) rest

/-- The write transactions of a trace, in order (R37). -/
def regWrites (tr : List Event) : List RegWrite := regWritesFrom none tr

/-- `Img[a][(r + i) mod 256] <- d_i` (R37). -/
def storeBytes (a r : Byte) (data : List Byte) (m : Memory) : Memory :=
  match data with
  | [] => m
  | d :: rest => storeBytes a (r + 1) rest (m.write (location a r) d)

/-- One write transaction applied to the image (R37). -/
def RegWrite.store (m : Memory) (t : RegWrite) : Memory := storeBytes t.addr t.reg t.data m

/-- The register image `Img` of a trace (R37). -/
def imageOf (tr : List Event) : Memory := (regWrites tr).foldl RegWrite.store []

/-- `Img[a][r]` (R37). -/
def imageAt (tr : List Event) (a r : Byte) : Option Byte := (imageOf tr).read (location a r)

/-- Where a trace stands in the grammar of transactions (R8). -/
inductive BusPhase
  | closed
  | opened
  | writing
  | readDone
  deriving DecidableEq, Repr

/-- The grammar (R8): a `Begin`, then one or more `Write` or exactly one `Read`, then an `End`; never nested; no
`SetClock` or `Wait` inside. -/
def BusPhase.next (p : BusPhase) (e : Event) : Option BusPhase :=
  match p, e with
  | .closed, .setClock _ => some .closed
  | .closed, .wait _ => some .closed
  | .closed, .beginTx _ => some .opened
  | .opened, .write _ => some .writing
  | .opened, .read _ => some .readDone
  | .writing, .write _ => some .writing
  | .writing, .endTx => some .closed
  | .readDone, .endTx => some .closed
  | _, _ => none

/-- The phase after a trace, from a phase; `none` if the trace breaks the grammar (R8). -/
def phaseFrom (p : Option BusPhase) (tr : List Event) : Option BusPhase :=
  match tr with
  | [] => p
  | e :: rest => phaseFrom (p.bind (fun q => q.next e)) rest

/-- The phase after a whole trace. -/
def busPhase (tr : List Event) : Option BusPhase := phaseFrom (some .closed) tr

/-- The sum of the lower bounds of the delays of a trace, in microseconds (R97, R98, R104). -/
def waitTotal (tr : List Event) : Nat :=
  match tr with
  | [] => 0
  | .wait us :: rest => us + waitTotal rest
  | _ :: rest => waitTotal rest

/-- How many events of a trace are handed to the transport (R38). -/
def busCount (tr : List Event) : Nat :=
  match tr with
  | [] => 0
  | .wait _ :: rest => busCount rest
  | _ :: rest => busCount rest + 1

/-- The end state of a run (R107): the trace, the responses and the stage, of an idle unit with no command left. -/
def State.endState (s : State) : Option (List Event × List Response × Stage) :=
  if s.busy then none
  else match s.host with
    | [] => some (s.trace, s.responses, s.stage)
    | _ :: _ => none

end Sys2Proof.Machine
end

