-- ==== Sys2Proof/Machine/Ports.lean ====
section
/-! DEFINITION. The outputs of the unit's ports as functions of its state (R38). `rsp_valid`, `rsp_status` and
`rsp_data` are fields of the state. -/

namespace Sys2Proof.Machine

/-- `cmd_ready = 1` exactly when `busy = 0` (R38). -/
def State.cmdReady (s : State) : Bool := !s.busy

/-- `stage_out` shows `stage` continuously (R38). -/
def State.stageOut (s : State) : BitVec 2 := s.stage.code

/-- `t_kind` of a bus event; a `Wait` is not handed to the transport (R38). -/
def BusOp.tKind : BusOp → Option (BitVec 3)
  | .setClock _ => some 0
  | .beginTx _ => some 1
  | .write _ => some 2
  | .read => some 3
  | .endTx => some 4
  | .wait _ => none

/-- `t_data` where the port defines all 32 bits: the rate of a `SetClock` (R38). -/
def BusOp.tData : BusOp → Option (BitVec 32)
  | .setClock hz => some hz
  | .beginTx _ => none
  | .write _ => none
  | .read => none
  | .endTx => none
  | .wait _ => none

/-- `t_data[7:0]` where the port defines only those bits: the address of a `Begin`, the byte of a `Write` (R38). -/
def BusOp.tDataByte : BusOp → Option Byte
  | .setClock _ => none
  | .beginTx a => some a
  | .write b => some b
  | .read => none
  | .endTx => none
  | .wait _ => none

/-- The bus event presented to the transport, if `t_valid = 1`: a busy unit presents its next event, and holds
`t_valid = 0` during a `Wait` (R38). -/
def State.presented (s : State) : Option BusOp :=
  if s.busy then
    match s.remaining with
    | [] => none
    | m :: _ => if m.op.onBus then some m.op else none
  else none

/-- `t_valid` (R38). -/
def State.tValid (s : State) : Bool := s.presented.isSome

/-- The unit is stuck: it presents an event that the transport never accepts (R92). -/
def State.stuck (s : State) : Bool := s.tValid && decide (s.tReady = some 0)

end Sys2Proof.Machine
end

