-- ==== Sys2Proof/Safety.lean ====
section
/-! DEFINITION. The terms claims use: the premises the environment owes (R92, R95, R102, R106), what it is for a
command to complete, the event lists the rules write out, the bracketing of prescale writes (R60), and the invariant
of the machine. -/

namespace Sys2Proof.Machine

/-! ### Premises -/

/-- The transport accepts at least `n` more events (R92, R106). -/
def State.accepts (s : State) (n : Nat) : Prop :=
  match s.tReady with
  | none => True
  | some k => n ≤ k

/-- The transport accepts every event (R92, R106). -/
def State.acceptsAll (s : State) : Prop := s.tReady = none

/-- The unit can take a command: idle and not in reset (R38, R93). -/
def State.ready (s : State) : Prop := s.resetIn = false ∧ s.busy = false

/-- "A `BEGIN` has responded since the last reset or `RESET`" (R95): the host's duty before any claim about chips. -/
def State.begun (s : State) : Prop := s.stage = .running

/-- The host keeps `addr <= 0x7F` (R24, R106, U6): no rule of the unit depends on it. -/
def Instr.addrLegal : Instr → Prop
  | .awrite addr _ _ => addr.toNat ≤ 0x7F
  | .read addr _ => addr.toNat ≤ 0x7F
  | .begin => True
  | .setmode _ _ => True
  | .setfreq _ => True
  | .reset => True
  | .clear => True

/-- Hardware reset is asserted only while the unit is idle (R103, R106). -/
def State.resetLegal (s : State) : Prop := s.resetIn = true → s.busy = false

/-! ### Completion -/

/-- From `s` a command ends in `t` with the events `evs`, the resting stage `st` and one response, and everything
else is as before: the unit is idle (R107), what the host presents and the reset line are untouched, the transport
has taken the bus events, and no transaction is open after any event. `cmd_q` is unspecified (R13) and the model's
counter of free values moves on. -/
structure Completes (s t : State) (evs : List Event) (st : Stage) (status : Status) (data : Byte) : Prop where
  trace : t.trace = s.trace ++ evs
  stage : t.stage = st
  responses : t.responses = s.responses ++ [{ status := status, data := data }]
  rspValid : t.rspValid = true
  rspStatus : t.rspStatus = status.code
  rspData : t.rspData = data
  busy : t.busy = false
  seqStep : t.seqStep = 0
  chan : t.chan = 0
  timer : t.timer = none
  openTx : t.openTx = if evs = [] then s.openTx else none
  entryStage : t.entryStage = s.stage
  host : t.host = s.host
  resetIn : t.resetIn = s.resetIn
  tReady : t.tReady = s.tReady.map (fun n => n - busCount evs)

/-- A command that reads nothing leaves the transport's answers and the sampled byte alone. -/
structure ReadsNothing (s t : State) : Prop where
  answers : t.answers = s.answers
  readByte : t.readByte = s.readByte

/-! ### The event lists of the rules, written out -/

/-- `W(a, r, d)` (R76). -/
def writeEvents (a r d : Byte) : List Event := [.beginTx a, .write r, .write d, .endTx]

/-- `C(c)` (R76). -/
def clearEvents (c : Nat) : List Event :=
  [.beginTx 0x40, .write (BitVec.ofNat 8 (0x06 + 4 * c)), .write 0x00, .write 0x00, .write 0x00, .write 0x10, .endTx]

/-- `C(0), C(1), ..., C(15)` (R73, R76). -/
def clearAllEvents : List Event := (List.range 16).flatMap clearEvents

/-- The sleep/wake sequence for the prescale byte `p` (R57, R76). -/
def programEvents (p : Byte) : List Event :=
  writeEvents 0x40 0x00 mode1Sleep ++ [.wait settle1Us] ++ writeEvents 0x40 0xFE p
    ++ writeEvents 0x40 0x00 mode1Normal ++ [.wait settle2Us]

/-- The first `Write` of an `AWRITE`: the base of the nearest channel (R61, R64). -/
def expectedBase (chan : Int) : Byte :=
  if chan < 0 then 0x06 else if 15 < chan then 0x42 else BitVec.ofInt 8 (6 + 4 * chan)

/-- The payload of an `AWRITE` from the unclamped duty value: full-on, full-off, or the value low byte first (R49,
R62, R63). -/
def expectedPayload (value : Int) : List Byte :=
  if 4095 ≤ value then [0x00, 0x10, 0x00, 0x00]
  else if value ≤ 0 then [0x00, 0x00, 0x00, 0x10]
  else [0x00, 0x00, BitVec.ofInt 8 (value % 256), BitVec.ofInt 8 (value / 256)]

/-- The seven events of an `AWRITE` (R65, R76). -/
def awriteEvents (addr : Byte) (chan value : Int) : List Event :=
  .beginTx addr :: .write (expectedBase chan) :: ((expectedPayload value).map Event.write ++ [.endTx])

/-- The six events of a `READ` answered with `b` (R31, R74). -/
def readEvents (addr reg b : Byte) : List Event :=
  [.beginTx addr, .write reg, .endTx, .beginTx addr, .read b, .endTx]

/-! ### The stage inside a command, in the rules' numbers -/

/-- The word makes the unit clear all channels: `CLEAR`, or `SETFREQ` with a frequency of 0 or below (R59, R73). Only
these use `chan` (R14). -/
def clearsChannels (d : Decoded) : Bool :=
  match d with
  | .illegal _ => false
  | .instr .begin => false
  | .instr (.setmode _ _) => false
  | .instr (.setfreq freq) => decide (freq ≤ 0)
  | .instr .reset => false
  | .instr .clear => true
  | .instr (.awrite _ _ _) => false
  | .instr (.read _ _) => false

/-- The stage written when event `k` (0-based) of a command accepted in the stage `entry` completes, if any: the last
column of R76. -/
def stageWriteAfter (d : Decoded) (k : Nat) (entry : Stage) : Option Stage :=
  match d with
  | .illegal _ => none
  | .instr .begin => if k = 12 then some .sleeping else if k = 21 then some .running else none
  | .instr (.setmode _ _) => none
  | .instr (.setfreq freq) =>
    if freq ≤ 0 then none else if k = 3 then some .sleeping else if k = 12 then some entry else none
  | .instr .reset => if k = 3 then some .uninitialized else none
  | .instr .clear => none
  | .instr (.awrite _ _ _) => none
  | .instr (.read _ _) => none

/-- The stage once events 0 to `k - 1` of a command accepted in the stage `entry` have completed (R57, R69, R76). -/
def stageInside (d : Decoded) (k : Nat) (entry : Stage) : Stage :=
  match d with
  | .illegal _ => entry
  | .instr .begin => if k ≤ 12 then entry else if k ≤ 21 then .sleeping else .running
  | .instr (.setmode _ _) => entry
  | .instr (.setfreq freq) => if 0 < freq ∧ 4 ≤ k ∧ k ≤ 12 then .sleeping else entry
  | .instr .reset => if k ≤ 3 then entry else .uninitialized
  | .instr .clear => entry
  | .instr (.awrite _ _ _) => entry
  | .instr (.read _ _) => entry

/-! ### The bracketing of prescale writes -/

/-- Every data write to register 0xFE in the trace is at address 0x40, carries a prescale in 4..254, and stands
between the sleep write with a delay of at least 500 microseconds and the wake write with its delay (R56, R60, R97). -/
def Bracketed (tr : List Event) : Prop :=
  ∀ (pre post : List Event) (a d : Byte), tr = pre ++ writeEvents a 0xFE d ++ post →
    a = 0x40 ∧ 4 ≤ d.toNat ∧ d.toNat ≤ 254
      ∧ (∃ before us, 500 ≤ us ∧ pre = before ++ writeEvents 0x40 0x00 mode1Sleep ++ [.wait us])
      ∧ ∃ after, post = writeEvents 0x40 0x00 mode1Normal ++ [.wait settle2Us] ++ after

/-! ### The invariant -/

/-- The events of an event list whose `Read`s are answered with `b`. -/
def eventsOf (ops : List MicroOp) (b : Byte) : List Event := ops.map (fun m => m.op.event b)

/-- `(step, chan)` after an event list (R14; log 10). -/
def positionAfter (ops : List MicroOp) : BitVec 6 × BitVec 4 :=
  ops.foldl (fun p m => if m.nextChannel then (0, p.2 + 1) else (p.1 + 1, p.2)) (0, 0)

/-- The stage after an event list begun in `st` (R76). -/
def stageAfterOps (ops : List MicroOp) (st : Stage) : Stage :=
  ops.foldl (fun q m => m.stageAfter.getD q) st

/-- An idle unit (R22, R69, R107): position 0, timer idle, no transaction open, not resting in `Sleeping`, and a trace
of whole transactions (R8). -/
structure IdleInv (s : State) : Prop where
  seqStep : s.seqStep = 0
  chan : s.chan = 0
  timer : s.timer = none
  openTx : s.openTx = none
  notSleeping : s.stage ≠ .sleeping
  wholeTransactions : busPhase s.trace = some .closed

/-- A busy unit that has completed the first `k` events of its command (R13, R14, R76): the position says `k`, the
stage is what those events have written, the trace stands where they leave it, a transaction is open exactly inside
one, the timer runs only during a `Wait`, and there is no response. -/
structure BusyInv (s : State) (k : Nat) : Prop where
  inside : k ≤ s.plan.ops.length
  position : (s.seqStep, s.chan) = positionAfter (s.plan.ops.take k)
  stage : s.stage = stageAfterOps (s.plan.ops.take k) s.entryStage
  entryResting : s.entryStage ≠ .sleeping
  phase : busPhase s.trace = busPhase (eventsOf (s.plan.ops.take k) 0)
  openTx : s.openTx.isSome = decide (busPhase s.trace ≠ some .closed)
  timer : ∀ us, s.timer = some us → (s.plan.ops[k]?).map (fun m => m.op) = some (.wait us)
  noResponse : s.rspValid = false

/-- The invariant of the machine. -/
def UnitInv (s : State) : Prop :=
  if s.busy then ∃ k, BusyInv s k else IdleInv s

end Sys2Proof.Machine
end

