-- ==== Sys2Proof/Certificates/Slice0/Obligations.lean ====
section
/-! DEFINITION. The statements for the provers, each with the rule of the spec it formalises or rests on. -/

open Sys2Proof Sys2Proof.Machine

/-! ### Encoding and assembly -/

/-- Decoding the word of a well-formed command gives the command back, every operand at every value (R39 to R45,
the encoding being the spec's own decision D2). -/
def Obligations.DecodeOfEncode : Prop :=
  ∀ i : Instr, i.wellFormed = true → decode (encode i) = .instr i

/-- A word that decodes to a command decodes to a well-formed one, whose own word is the same but for the ignored
bits, which are zero (R39, R41, R43, R50; decisions D2, D5). -/
def Obligations.EncodeOfDecode : Prop :=
  ∀ (w : Word) (i : Instr), decode w = .instr i → i.wellFormed = true ∧ encode i = w &&& usedBits i

/-- Ignored bits never change what a word decodes to (R46; decision D5). -/
def Obligations.IgnoredBitsDoNotMatter : Prop :=
  ∀ (w v : Word) (i : Instr), decode w = .instr i → w &&& usedBits i = v &&& usedBits i → decode v = .instr i

/-- Exactly the opcodes 0x00 and 0x08 to 0xFF are illegal (R46, R81; decision D4). -/
def Obligations.IllegalOpcodes : Prop :=
  ∀ (w : Word) (op : Byte), decode w = .illegal op ↔ op = w.extractLsb' 32 8 ∧ (op.toNat = 0 ∨ 8 ≤ op.toNat)

/-- Words written out from the encoding decode to the commands they stand for, one per format (R52). -/
def Obligations.WorkedWordsDecode : Prop :=
  decode 0x0100000000 = .instr .begin ∧ decode 0x02000003AA = .instr (.setmode 3 0xAA) ∧
  decode 0x0301E84800 = .instr (.setfreq 32000000) ∧ decode 0x03FFFF0000 = .instr (.setfreq (-65536)) ∧
  decode 0x0641FF1388 = .instr (.awrite 0x41 (-1) 5000) ∧ decode 0x07000040FE = .instr (.read 0x40 0xFE)

/-- The worked lines of source assemble to the words the spec gives (R50, R51, R52; decision D2). -/
def Obligations.WorkedLinesAssemble : Prop :=
  assembleWord "AWRITE 3, 2048" = some 0x0640030800 ∧ assembleWord "AWRITE -1, 5000, 0x41" = some 0x0641FF1388 ∧
  assembleWord "SETFREQ 488.28125" = some 0x0301E84800 ∧ assembleWord "SETFREQ -1" = some 0x03FFFF0000 ∧
  assembleWord "SETMODE 1, 0x20" = some 0x0200000120 ∧ assembleWord "READ 0x40, 0xFE" = some 0x07000040FE

/-- Whatever a line of source assembles to is a well-formed command, so it has a command word (R50; decision D2). -/
def Obligations.AssembledCommandsFit : Prop :=
  ∀ (line : List Char) (i : Instr), assembleLine line = .instr i → i.wellFormed = true

/-! ### Reset, acceptance, stepping -/

/-- After hardware reset the unit is idle in `Uninitialized`, at position 0, with no response, no event and no open
transaction (R22, R93; decision D25). The values of the unspecified registers are the model's (log 7) and not stated. -/
def Obligations.ResetLeavesUnitIdle : Prop :=
  State.reset.stage = .uninitialized ∧ State.reset.busy = false ∧ State.reset.seqStep = 0 ∧ State.reset.chan = 0 ∧
  State.reset.timer = none ∧ State.reset.rspValid = false ∧ State.reset.openTx = none ∧ State.reset.trace = [] ∧
  State.reset.cmdReady = true ∧ State.reset.tValid = false ∧ State.reset.stageOut = 0

/-- The reset line, on an idle unit, puts the unit's state at the reset values, emits no event and keeps what the
host and the transport do next; on a busy unit it is refused (R93, R94, R103; decision D25). -/
def Obligations.HardwareReset : Prop :=
  ∀ s : State, s.resetIn = true →
    (s.busy = true → step s = .refused .resetWhileBusy) ∧
    (s.busy = false → ∃ t, step s = .next t ∧ t.stage = .uninitialized ∧ t.busy = false ∧ t.seqStep = 0 ∧
      t.chan = 0 ∧ t.timer = none ∧ t.rspValid = false ∧ t.openTx = none ∧ t.resetIn = false ∧ t.trace = s.trace ∧
      t.responses = s.responses ∧ t.host = s.host ∧ t.answers = s.answers ∧ t.tReady = s.tReady)

/-- An idle unit to which the host presents a word that decodes to `i` runs `i`, in the state where the word is
latched in `cmd_q`, taken from the host, and the last response is over; nothing else differs but the unspecified
response fields and the model's counter (R9, R13, R38; decisions D1, D6). -/
def Obligations.StepRunsDecodedCommand : Prop :=
  ∀ (s : State) (w : Word) (rest : List Word) (i : Instr),
    s.ready → s.host = w :: rest → decode w = .instr i →
    ∃ q, step s = exec i q ∧ q.cmdQ = w ∧ q.host = rest ∧ q.rspValid = false ∧ q.stage = s.stage ∧
      q.busy = false ∧ q.seqStep = s.seqStep ∧ q.chan = s.chan ∧ q.timer = s.timer ∧ q.openTx = s.openTx ∧
      q.entryStage = s.entryStage ∧ q.readByte = s.readByte ∧ q.resetIn = false ∧ q.tReady = s.tReady ∧
      q.answers = s.answers ∧ q.trace = s.trace ∧ q.responses = s.responses

/-- An illegal opcode is answered ILLEGAL with data 0x00; no event is emitted, the stage is unchanged, nothing is
latched but the unspecified `cmd_q` (R81, R86; decision D4). -/
def Obligations.IllegalOpcodeResponds : Prop :=
  ∀ (s : State) (w : Word) (rest : List Word) (op : Byte),
    s.ready → s.host = w :: rest → decode w = .illegal op →
    ∃ t, step s = .next t ∧ t.trace = s.trace ∧ t.stage = s.stage ∧
      t.responses = s.responses ++ [{ status := .illegal, data := 0 }] ∧ t.rspValid = true ∧ t.rspStatus = 2 ∧
      t.rspData = 0 ∧ t.busy = false ∧ t.host = rest ∧ t.resetIn = false ∧ t.seqStep = 0 ∧ t.chan = 0 ∧
      t.timer = none ∧ t.openTx = s.openTx ∧ t.tReady = s.tReady ∧ t.answers = s.answers ∧ t.readByte = s.readByte

/-- With no command presented an idle unit does nothing, and the response cycle is over (R38, R93; decision D25). -/
def Obligations.IdleUnitDoesNothing : Prop :=
  ∀ s : State, s.ready → s.host = [] →
    ∃ t, step s = .next t ∧ t.busy = false ∧ t.rspValid = false ∧ t.stage = s.stage ∧ t.trace = s.trace ∧
      t.responses = s.responses ∧ t.seqStep = s.seqStep ∧ t.chan = s.chan ∧ t.timer = s.timer ∧
      t.openTx = s.openTx ∧ t.host = [] ∧ t.tReady = s.tReady ∧ t.answers = s.answers

/-- While the unit is busy the command port is closed: no smallest step takes a word from the host, `cmd_q` is not
changed until `busy` returns to 0, and `step` moves by at most one event (R13, R14, R38; decisions D1, D6, D29). -/
def Obligations.BusyUnitHoldsItsCommand : Prop :=
  ∀ s t : State, s.busy = true → tick s = .next t →
    s.cmdReady = false ∧ t.host = s.host ∧ (t.busy = true → t.cmdQ = s.cmdQ ∧ t.entryStage = s.entryStage) ∧
    (t.trace = s.trace ∨ ∃ e, t.trace = s.trace ++ [e])

/-- A busy unit hands the transport exactly the event it presents, if the transport accepts one more: the event joins
the trace with its `t_kind`, the stage write of R76 for the event's index is made, and the command goes on. The
position moves by one; only a word that clears all channels starts `step` again, at an `End`, and where the invariant
holds that is at `step` 6 of a channel below 15, while `chan` stays 0 in every other command (R14, R38, R76;
decisions D1, D29; how `step` and `chan` combine is the model's reading, log 10). -/
def Obligations.PresentedEventIsHandedOver : Prop :=
  ∀ (s : State) (op : BusOp), s.resetIn = false → s.presented = some op → s.accepts 1 →
    ∃ t, tick s = .next t ∧ t.trace = s.trace ++ [op.event s.nextAnswer] ∧ op.tKind.isSome = true ∧
      t.busy = true ∧ t.cmdQ = s.cmdQ ∧ t.entryStage = s.entryStage ∧ t.timer = s.timer ∧
      t.tReady = s.tReady.map (fun n => n - 1) ∧
      t.stage = (stageWriteAfter (decode s.cmdQ) (7 * s.chan.toNat + s.seqStep.toNat) s.entryStage).getD s.stage ∧
      ((t.seqStep = s.seqStep + 1 ∧ t.chan = s.chan) ∨
        (clearsChannels (decode s.cmdQ) = true ∧ op = .endTx ∧ t.seqStep = 0 ∧ t.chan = s.chan + 1)) ∧
      (UnitInv s →
        if clearsChannels (decode s.cmdQ) = true then
          if s.seqStep = 6 ∧ s.chan.toNat < 15 then t.seqStep = 0 ∧ t.chan = s.chan + 1 ∧ op = .endTx
          else t.seqStep = s.seqStep + 1 ∧ t.chan = s.chan
        else s.chan = 0 ∧ t.chan = 0 ∧ t.seqStep = s.seqStep + 1)

/-- A delay is never handed to the transport: a unit whose next event is a `Wait` holds `t_valid = 0`, loads its
timer in one small step and completes the event in the next, whatever the transport does; it writes no stage and the
position moves by one (R14, R15, R38, R92; decisions D1, D15; two small steps for a delay are the model's, log 12). -/
def Obligations.DelaysAreNotHandedOver : Prop :=
  ∀ (s : State) (m : MicroOp) (rest : List MicroOp) (us : Nat),
    s.resetIn = false → s.busy = true → s.remaining = m :: rest → m.op = .wait us → s.timer = none →
    s.tValid = false ∧ ∃ q t, tick s = .next q ∧ q.timer = some us ∧ q.trace = s.trace ∧ q.tValid = false ∧
      tick q = .next t ∧ t.timer = none ∧ t.trace = s.trace ++ [.wait us] ∧ t.tReady = s.tReady ∧ t.busy = true ∧
      t.stage = s.stage ∧ t.seqStep = s.seqStep + 1 ∧ t.chan = s.chan

/-! ### What each command does -/

/-- `BEGIN` emits its 23 events and ends in `Running` with (OK, 0x00), in every stage (R70; the address and the
grouping are decisions D19, D20, the parameters D9 to D14 by name). -/
def Obligations.BeginCompletes : Prop :=
  ∀ s : State, s.accepts 21 → ∃ t, exec .begin s = .next t ∧
    Completes s t (.setClock Config.busClockHz :: (writeEvents 0x40 0x00 mode1Normal
      ++ writeEvents 0x40 0x01 mode2Default ++ programEvents 4)) .running .ok 0 ∧ ReadsNothing s t

/-- `SETMODE` with selector 1 or 2 writes one byte to mode-1 or mode-2, answers (OK, 0x00) and changes no stage (R71;
the address is decision D19). -/
def Obligations.SetmodeWritesModeRegister : Prop :=
  ∀ (s : State) (sel val : Byte), sel = 1 ∨ sel = 2 → s.accepts 4 →
    ∃ t, exec (.setmode sel val) s = .next t ∧
      Completes s t (writeEvents 0x40 (if sel = 1 then 0x00 else 0x01) val) s.stage .ok 0 ∧ ReadsNothing s t

/-- `SETMODE` with any other selector emits nothing, changes nothing and answers (FAIL, 0x00); with selector 1 or 2
the answer is never FAIL, and no other command answers FAIL; the next command does what it would have done had the
failing one never been issued (R80), given the same byte to read and a transport that accepts every event. -/
def Obligations.InvalidSelectorFails : Prop :=
  (∀ (s : State) (sel val : Byte), sel ≠ 1 → sel ≠ 2 →
    ∃ t, exec (.setmode sel val) s = .next t ∧ Completes s t [] s.stage .fail 0 ∧ ReadsNothing s t) ∧
  (∀ (i : Instr) (s t : State) (r : Response), exec i s = .next t → t.responses = s.responses ++ [r] →
    (r.status = .fail ↔ ∃ sel val, i = .setmode sel val ∧ sel ≠ 1 ∧ sel ≠ 2)) ∧
  ∀ (s t : State) (sel val : Byte) (i : Instr), s.acceptsAll → sel ≠ 1 → sel ≠ 2 → exec (.setmode sel val) s = .next t →
    s.nextAnswer = t.nextAnswer →
    ∃ u v evs r, exec i s = .next u ∧ exec i t = .next v ∧ u.trace = s.trace ++ evs ∧ v.trace = t.trace ++ evs ∧
      u.responses = s.responses ++ [r] ∧ v.responses = t.responses ++ [r] ∧ u.stage = v.stage

/-- `SETFREQ` with a positive frequency emits the sleep/wake sequence with the prescale of the clamped frequency, and
comes back to the stage it was accepted in (R57, R58; decisions D8, D14, D17, D19). -/
def Obligations.SetfreqProgramsPrescale : Prop :=
  ∀ (s : State) (freq : Int), 0 < freq → s.accepts 12 →
    ∃ t, exec (.setfreq freq) s = .next t ∧
      Completes s t (programEvents (BitVec.ofNat 8 (prescale (clampFreq freq)))) s.stage .ok 0 ∧ ReadsNothing s t

/-- `SETFREQ` with a frequency of 0 or below does exactly what `CLEAR` does, whatever the transport accepts: 16
transactions, no write to mode-1, none to 0xFE, no `Wait`, no change of stage (R59). -/
def Obligations.NonPositiveFrequencyBlanks : Prop :=
  ∀ (s : State) (freq : Int), freq ≤ 0 →
    exec (.setfreq freq) s = exec .clear s ∧
    (s.accepts 112 → ∃ t evs, exec (.setfreq freq) s = .next t ∧ t.trace = s.trace ++ evs ∧ t.stage = s.stage ∧
      (∀ us, .wait us ∉ evs) ∧ (regWrites evs).length = 16 ∧ ∀ w ∈ regWrites evs, w.reg ≠ 0x00 ∧ w.reg ≠ 0xFE)

/-- `SETFREQ` with a frequency of 0 or below completes with the 112 events of the sixteen channel writes (R58, R73;
decisions D19, D21). -/
def Obligations.BlankingClearsAllChannels : Prop :=
  ∀ (s : State) (freq : Int), freq ≤ 0 → s.accepts 112 →
    ∃ t, exec (.setfreq freq) s = .next t ∧ Completes s t clearAllEvents s.stage .ok 0 ∧ ReadsNothing s t

/-- `RESET` emits the one broadcast write and ends in `Uninitialized` with (OK, 0x00), in every stage (R72; the byte
is decision D12, by name). -/
def Obligations.ResetBroadcasts : Prop :=
  ∀ s : State, s.accepts 4 → ∃ t, exec .reset s = .next t ∧
    Completes s t (writeEvents 0x70 0x00 resetPattern) .uninitialized .ok 0 ∧ ReadsNothing s t

/-- `CLEAR` emits the sixteen channel writes of duty 0 in ascending order, answers (OK, 0x00) and changes no stage
(R73; decisions D19, D21). -/
def Obligations.ClearWritesAllChannels : Prop :=
  ∀ s : State, s.accepts 112 → ∃ t, exec .clear s = .next t ∧
    Completes s t clearAllEvents s.stage .ok 0 ∧ ReadsNothing s t

/-- `AWRITE` emits one transaction of five `Write`s: the base of the nearest channel and the payload of the saturated
value, low byte first, the on-field first; it answers (OK, 0x00) and changes no stage (R61 to R66, R28, R49; that the
value is clamped before the edge cases are tested is R62's own inference). -/
def Obligations.AwriteWritesChannel : Prop :=
  ∀ (s : State) (addr : Byte) (chan value : Int), s.accepts 7 →
    ∃ t, exec (.awrite addr chan value) s = .next t ∧
      Completes s t (awriteEvents addr chan value) s.stage .ok 0 ∧ ReadsNothing s t

/-- `READ` emits a pointer write and a one-byte read and answers (OK, b) for whatever byte `b` the transport supplies;
the transport's next answer is used up (R31, R74; decision D24). -/
def Obligations.ReadReturnsTheBusByte : Prop :=
  ∀ (s : State) (addr reg b : Byte) (rest : List Byte), s.answers = b :: rest → s.accepts 6 →
    ∃ t, exec (.read addr reg) s = .next t ∧ Completes s t (readEvents addr reg b) s.stage .ok b ∧
      t.answers = rest ∧ t.readByte = b

/-- A `READ` whose answer the state does not supply completes as well, with some byte (R31; log 2). -/
def Obligations.ReadWithoutAnswerCompletes : Prop :=
  ∀ (s : State) (addr reg : Byte), s.answers = [] → s.accepts 6 →
    ∃ t b, exec (.read addr reg) s = .next t ∧ Completes s t (readEvents addr reg b) s.stage .ok b ∧
      t.answers = [] ∧ t.readByte = b

/-! ### The encoder and the prescale calculator -/

/-- The channel is saturated to 0..15, never wrapped: an index outside acts as the nearest bound (R61). -/
def Obligations.ChannelSaturates : Prop :=
  ∀ (s : State) (addr : Byte) (chan value : Int),
    (15 < chan → exec (.awrite addr chan value) s = exec (.awrite addr 15 value) s) ∧
    (chan < 0 → exec (.awrite addr chan value) s = exec (.awrite addr 0 value) s) ∧
    (0 ≤ chan → chan ≤ 15 → (clampChannel chan : Int) = chan)

/-- The duty value is saturated to 0..4095, never wrapped, before the edge cases are tested (R62). -/
def Obligations.ValueSaturates : Prop :=
  ∀ (s : State) (addr : Byte) (chan value : Int),
    (4095 ≤ value → exec (.awrite addr chan value) s = exec (.awrite addr chan 4095) s ∧
      payload (clampValue value) = [0x00, 0x10, 0x00, 0x00]) ∧
    (value ≤ 0 → exec (.awrite addr chan value) s = exec (.awrite addr chan 0) s ∧
      payload (clampValue value) = [0x00, 0x00, 0x00, 0x10]) ∧
    (0 ≤ value → value ≤ 4095 → (clampValue value : Int) = value)

/-- The edge cases: 4095 is full-on (4096, 0), 0 is full-off (0, 4096), every other clamped value `v` is (0, v) (R63). -/
def Obligations.EdgeCaseFields : Prop :=
  fields 4095 = (4096, 0) ∧ fields 0 = (0, 4096) ∧ ∀ v, 1 ≤ v → v ≤ 4094 → fields v = (0, v)

/-- The base address of each channel is the table's entry, and `0x06 + 4*c`; the lookups of the commands are made with
an index of the sixteen alone: `AWRITE` looks up its clamped channel, the clearing of all channels 0 to 15 (R64). -/
def Obligations.ChannelBaseTable : Prop :=
  (List.range 16).map chBase = [0x06, 0x0A, 0x0E, 0x12, 0x16, 0x1A, 0x1E, 0x22, 0x26, 0x2A, 0x2E, 0x32, 0x36, 0x3A,
    0x3E, 0x42] ∧ (∀ c < 16, (chBase c).toNat = 0x06 + 4 * c) ∧ (∀ chan : Int, clampChannel chan < 16) ∧
  (∀ (st : Stage) (addr : Byte) (chan value : Int),
    ((planOf (.awrite addr chan value) st).ops[1]?).map (fun m => m.op) = some (.write (chBase (clampChannel chan)))) ∧
  (∀ st : Stage, ∀ c < 16, ((planOf .clear st).ops[7 * c + 1]?).map (fun m => m.op) = some (.write (chBase c))) ∧
  ∀ (st : Stage), ∀ freq ≤ 0, planOf (.setfreq freq) st = planOf .clear st

/-- Two fields of 13 bits are packed low byte first, the on-field first, bits 7:5 of each high byte 0, and the payload
follows the register address in one transaction (R48). -/
def Obligations.FieldPacking : Prop :=
  (∀ on off : Nat, on ≤ 4096 → off ≤ 4096 → packFields on off =
    [(BitVec.ofNat 13 on).extractLsb' 0 8, 0#3 ++ (BitVec.ofNat 13 on).extractLsb' 8 5,
     (BitVec.ofNat 13 off).extractLsb' 0 8, 0#3 ++ (BitVec.ofNat 13 off).extractLsb' 8 5]) ∧
  ∀ v ≤ 4095, (fields v).1 ≤ 4096 ∧ (fields v).2 ≤ 4096 ∧ ∀ (a : Byte) (c : Nat),
    (channelWrite a c v).map (fun m => m.op) =
      .beginTx a :: .write (chBase c) :: ((packFields (fields v).1 (fields v).2).map BusOp.write ++ [.endTx])

/-- The three payload shapes, each with its fields and the duty it asks for in positions of 4096; every duty operand
is clamped to one of them (R49). -/
def Obligations.PayloadShapes : Prop :=
  (fields 4095 = (4096, 0) ∧ payload 4095 = [0x00, 0x10, 0x00, 0x00] ∧ dutyPositions 4095 = 4096) ∧
  (fields 0 = (0, 4096) ∧ payload 0 = [0x00, 0x00, 0x00, 0x10] ∧ dutyPositions 0 = 0) ∧
  (∀ v, 1 ≤ v → v ≤ 4094 → fields v = (0, v) ∧ dutyPositions v = v ∧ v / 256 ≤ 0x0F ∧
    payload v = [0x00, 0x00, BitVec.ofNat 8 (v % 256), BitVec.ofNat 8 (v / 256)]) ∧
  ∀ value : Int, clampValue value ≤ 4095

/-- The invariants of a payload, (b) to (f) (R68, which the spec derives from R62, R63, R65). -/
def Obligations.PayloadInvariants : Prop :=
  (∀ v ≤ 4095, ∃ p1 p2 p3 : Byte, payload v = [0x00, p1, p2, p3] ∧ (p1 = 0x00 ∨ p1 = 0x10) ∧ p3.toNat ≤ 0x10 ∧
    (p1 = 0x10 ↔ v = 4095) ∧ (v = 4095 ↔ p2 = 0 ∧ p3 = 0) ∧ (p3 = 0x10 ↔ v = 0) ∧ (v = 0 → p2 = 0) ∧
    (1 ≤ v → v ≤ 4094 → v = p2.toNat + 256 * p3.toNat ∧ p3.toNat ≤ 0x0F)) ∧
  ∀ v ≤ 4095, ∀ u ≤ 4095, payload v = payload u → v = u

/-- The four classes of a requested frequency `f = F / 65536` with exact boundaries, in hertz and in raw terms; the
effective frequency of a positive one; and what each class does: 0 or below clears all outputs, above 1526 Hz is
1526 Hz, between 0 and 24 Hz is 24 Hz (R53). -/
def Obligations.FrequencyClasses : Prop :=
  ∀ (s : State) (freq : Int),
    (freqClass freq = .blank ↔ (freq : ℚ) / 65536 ≤ 0) ∧
    (freqClass freq = .low ↔ 0 < (freq : ℚ) / 65536 ∧ (freq : ℚ) / 65536 < 24) ∧
    (freqClass freq = .inRange ↔ 24 ≤ (freq : ℚ) / 65536 ∧ (freq : ℚ) / 65536 ≤ 1526) ∧
    (freqClass freq = .high ↔ 1526 < (freq : ℚ) / 65536) ∧
    (freqClass freq = .blank ↔ freq ≤ 0) ∧ (freqClass freq = .low ↔ 0 < freq ∧ freq < 0x00180000) ∧
    (freqClass freq = .high ↔ freq > 0x05F60000) ∧
    (0 < freq → (clampFreq freq : ℚ) / 65536 = max 24 (min 1526 ((freq : ℚ) / 65536)) ∧
      (clampFreq freq : Int) = max 0x00180000 (min 0x05F60000 freq)) ∧
    (freqClass freq = .blank → exec (.setfreq freq) s = exec .clear s) ∧
    (freqClass freq = .high → exec (.setfreq freq) s = exec (.setfreq (1526 * 65536)) s) ∧
    (freqClass freq = .low → exec (.setfreq freq) s = exec (.setfreq (24 * 65536)) s)

/-- The prescale is the exact quotient `25 000 000 / (4096 * fc)` rounded to the nearest integer, a half going up
(R54, R55; the tie rule is decision D8). -/
def Obligations.PrescaleRoundsExactQuotient : Prop :=
  ∀ freq : Int, 0 < freq →
    (prescale (clampFreq freq) : Int) = ⌊(25000000 : ℚ) / (4096 * ((clampFreq freq : ℚ) / 65536)) + 1 / 2⌋

/-- The prescale lies in 4..254, so the byte written holds it whole; it is non-increasing in the frequency, 4 at 1526
Hz and 254 at 24 Hz (R56, which the spec derives from R53 and R54). -/
def Obligations.PrescaleRange : Prop :=
  (∀ freq : Int, 0 < freq → 4 ≤ prescale (clampFreq freq) ∧ prescale (clampFreq freq) ≤ 254 ∧
    (BitVec.ofNat 8 (prescale (clampFreq freq))).toNat = prescale (clampFreq freq)) ∧
  (∀ f g : Int, 0 < f → f ≤ g → prescale (clampFreq g) ≤ prescale (clampFreq f)) ∧
  prescale (clampFreq (1526 * 65536)) = 4 ∧ prescale (clampFreq (24 * 65536)) = 254

/-- Every prescale in 4..254 is programmed by some frequency operand (check V-PRE-3, from R53 and R54). -/
def Obligations.EveryPrescaleReached : Prop :=
  ∀ p, 4 ≤ p → p ≤ 254 → ∃ freq : Int, 0 < freq ∧ freqFits freq = true ∧ prescale (clampFreq freq) = p

/-! ### The register image -/

/-- The image after an `AWRITE` holds the payload at the channel's four addresses, and every other location as before
(R26, R27, R37; the observer is decision D26). -/
def Obligations.AwriteImage : Prop :=
  ∀ (s t : State) (addr : Byte) (chan value : Int), s.accepts 7 → exec (.awrite addr chan value) s = .next t →
    (∀ i < 4, imageAt t.trace addr (expectedBase chan + BitVec.ofNat 8 i) = (expectedPayload value)[i]?) ∧
    ∀ a r : Byte, (a = addr → ∀ i < 4, r ≠ expectedBase chan + BitVec.ofNat 8 i) →
      imageAt t.trace a r = imageAt s.trace a r

/-- The image after a `SETMODE` with selector 1 or 2, or a `RESET`, holds its one byte, and every other location as
before (R26, R37, R71, R72; decisions D12, D19, D26). -/
def Obligations.ModeWriteImage : Prop :=
  ∀ (s t : State), s.accepts 4 →
    (∀ sel val : Byte, sel = 1 ∨ sel = 2 → exec (.setmode sel val) s = .next t → ∀ a r : Byte,
      imageAt t.trace a r =
        if a = 0x40 ∧ r = (if sel = 1 then 0x00 else 0x01) then some val else imageAt s.trace a r) ∧
    (exec .reset s = .next t → ∀ a r : Byte,
      imageAt t.trace a r = if a = 0x70 ∧ r = 0x00 then some resetPattern else imageAt s.trace a r)

/-- The image after `BEGIN`, or after `SETFREQ` with a positive frequency, holds mode-1, the prescale and, for
`BEGIN`, mode-2, all at address 0x40, and every other location as before (R37, R57, R70; decisions D8 to D11, D19, D26). -/
def Obligations.FrequencyImage : Prop :=
  ∀ s t : State,
    (s.accepts 21 → exec .begin s = .next t → ∀ a r : Byte, imageAt t.trace a r =
      if a = 0x40 ∧ r = 0x00 then some mode1Normal else if a = 0x40 ∧ r = 0x01 then some mode2Default
      else if a = 0x40 ∧ r = 0xFE then some 4 else imageAt s.trace a r) ∧
    ∀ freq : Int, 0 < freq → s.accepts 12 → exec (.setfreq freq) s = .next t → ∀ a r : Byte, imageAt t.trace a r =
      if a = 0x40 ∧ r = 0x00 then some mode1Normal
      else if a = 0x40 ∧ r = 0xFE then some (BitVec.ofNat 8 (prescale (clampFreq freq))) else imageAt s.trace a r

/-- The image after `CLEAR`, or `SETFREQ` with a frequency of 0 or below, holds the full-off payload in every channel
block 0x06 to 0x45 at address 0x40, and every other location as before (R18, R37, R73; decisions D19, D21, D26). -/
def Obligations.ClearImage : Prop :=
  ∀ (s t : State) (i : Instr), (i = .clear ∨ ∃ freq ≤ 0, i = .setfreq freq) → s.accepts 112 →
    exec i s = .next t → ∀ a r : Byte, imageAt t.trace a r =
      if a = 0x40 ∧ 0x06 ≤ r.toNat ∧ r.toNat ≤ 0x45 then some (if r.toNat % 4 = 1 then 0x10 else 0x00)
      else imageAt s.trace a r

/-- A `READ`, or a `SETMODE` with an invalid selector, stores nothing: every location reads as before (R31, R37, R80;
decision D26). -/
def Obligations.NoStoreImage : Prop :=
  ∀ (s t : State) (i : Instr),
    ((∃ addr reg, i = .read addr reg ∧ s.accepts 6) ∨ ∃ sel val, i = .setmode sel val ∧ sel ≠ 1 ∧ sel ≠ 2) →
    exec i s = .next t → ∀ a r : Byte, imageAt t.trace a r = imageAt s.trace a r

/-- The image of any trace is in canonical form (R37; decision D26). -/
def Obligations.ImageIsCanonical : Prop := ∀ tr : List Event, (imageOf tr).wf = true

/-- Every write transaction of a command that carries data goes to mode-1, mode-2 or the prescale register with one
byte, or to one of the sixteen channel blocks with four; a `READ` names any register address (R25). -/
def Obligations.OnlyKnownRegistersWritten : Prop :=
  (∀ (i : Instr) (st : Stage) (b : Byte), ∀ w ∈ regWrites (eventsOf (planOf i st).ops b), w.data ≠ [] →
    ((w.reg = 0x00 ∨ w.reg = 0x01 ∨ w.reg = 0xFE) ∧ w.data.length = 1) ∨
    (∃ c < 16, w.reg = BitVec.ofNat 8 (0x06 + 4 * c)) ∧ w.data.length = 4) ∧
  ∀ (addr reg : Byte) (st : Stage) (b : Byte),
    regWrites (eventsOf (planOf (.read addr reg) st).ops b) = [{ addr := addr, reg := reg, data := [] }]

/-! ### Whole-machine rules -/

/-- Only `BEGIN` and `RESET` change the resting stage (R12, R69; decision D17). -/
def Obligations.RestingStage : Prop :=
  ∀ (i : Instr) (s t : State), exec i s = .next t → t.busy = false →
    (i = .begin → t.stage = .running) ∧ (i = .reset → t.stage = .uninitialized) ∧
    (i ≠ .begin → i ≠ .reset → t.stage = s.stage)

/-- The events a command emits and its response depend on its operands and on the byte read alone, not on the stage,
on what came before, or on anything else of the state (R16, R75; decision D18). -/
def Obligations.OperandsDetermineEvents : Prop :=
  ∀ (i : Instr) (s q t u : State), s.acceptsAll → q.acceptsAll → s.nextAnswer = q.nextAnswer →
    exec i s = .next t → exec i q = .next u →
    ∃ evs r, t.trace = s.trace ++ evs ∧ u.trace = q.trace ++ evs ∧
      t.responses = s.responses ++ [r] ∧ u.responses = q.responses ++ [r]

/-- The bytes the transport answers reach nothing but the data of a `READ`'s response: any other command does the
same whatever they are (R31, R106, T5). -/
def Obligations.AnswersReachOnlyReads : Prop :=
  ∀ (i : Instr) (s : State) (answers : List Byte), (∀ addr reg, i ≠ .read addr reg) →
    ∃ t, exec i s = .next t ∧ exec i { s with answers := answers } = .next { t with answers := answers }

/-- A transport that stops accepting before a command's last event leaves the unit busy for ever: a prefix of the
command's events, no response (R92; decision D28). That a stuck state is one whose step gives the same state is the
model's form of R92's "no enabled step" (log 20). -/
def Obligations.StalledTransportSticks : Prop :=
  ∀ (s : State) (w : Word) (rest : List Word) (i : Instr) (k : Nat),
    s.ready → s.host = w :: rest → decode w = .instr i → s.tReady = some k →
    k < busCount (eventsOf (planOf i s.stage).ops 0) →
    ∃ t, step s = .next t ∧ t.busy = true ∧ t.responses = s.responses ∧ t.rspValid = false ∧
      (∃ b, ∃ n < (planOf i s.stage).ops.length,
        t.trace = s.trace ++ (eventsOf (planOf i s.stage).ops b).take n) ∧
      step t = .next t ∧ tick t = .next t

/-- A busy unit that presents an event the transport never accepts does not move (R92; decision D28). That it takes a
step which gives the same state is the model's form of R92's "no enabled step" (log 20). -/
def Obligations.StuckUnitDoesNotMove : Prop :=
  ∀ s : State, s.resetIn = false → s.stuck = true → step s = .next s ∧ tick s = .next s

/-- The small steps make the big step: from acceptance, finitely many smallest steps, one bus event each, lead to the
very state in which the command ends, or in which the transport stalls it (R9, R76; decision D29). The bound of two
smallest steps for an event is the model's (log 12, log 13), a stall that of log 20. -/
def Obligations.SmallStepsMakeBigStep : Prop :=
  ∀ (s : State) (w : Word) (rest : List Word), s.ready → s.host = w :: rest →
    ∃ n t, step s = .next t ∧ ticks n s = .next t ∧
      n ≤ 2 + 2 * (planOfWord w s.stage).ops.length ∧ (t.busy = false ∨ tick t = .next t)

/-- A finite list of command words, each presented after the response to the one before, runs to its end when the
transport accepts every event: one response for each word, legal or not, and then an idle unit with no word left
(R78, R106, R107; decisions D32, D33). -/
def Obligations.CommandListRunsToItsEnd : Prop :=
  ∀ s : State, s.ready → s.acceptsAll →
    ∃ t, Host.Core.run Sys2Proof.core s.host.length s = .next t ∧ t.ready ∧ t.host = [] ∧
      t.responses.length = s.responses.length + s.host.length ∧
      t.endState = some (t.trace, t.responses, t.stage)

/-- The trace of a list of command words is the concatenation, in command order, of the event lists of its commands,
whatever stage each is accepted in; each `Read` carries some byte (R32; the transport accepts every event, R92). -/
def Obligations.TraceIsConcatenation : Prop :=
  ∀ s : State, s.ready → s.acceptsAll →
    ∃ (t : State) (bytes : List Byte), Host.Core.run Sys2Proof.core s.host.length s = .next t ∧
      bytes.length = s.host.length ∧ ∀ st : Stage,
        t.trace = s.trace ++ (List.zipWith (fun w b => eventsOf (planOfWord w st).ops b) s.host bytes).flatten

/-- The stage after a list of command words: `Running` after a `BEGIN`, `Uninitialized` after a `RESET`, left by every
other word, legal or not (R12, R69, T2; decision D17). -/
def Obligations.StageAfterCommandList : Prop :=
  ∀ s : State, s.ready → s.acceptsAll →
    ∃ t : State, Host.Core.run Sys2Proof.core s.host.length s = .next t ∧
      t.stage = s.host.foldl (fun st w =>
        if decode w = .instr .begin then .running else if decode w = .instr .reset then .uninitialized else st) s.stage

/-- The invariant holds after hardware reset (R22). -/
def Obligations.InvariantAtReset : Prop := UnitInv State.reset

/-- Every step and every smallest step keeps the invariant: the unit never rests in `Sleeping`, its position, stage,
timer and open transaction agree with the events its command has emitted, and the trace is made of well-formed
transactions (R8, R11, R12, R14, R69, R76, T3; decisions D17, D29). -/
def Obligations.InvariantKept : Prop :=
  ∀ s t : State, UnitInv s → (step s = .next t → UnitInv t) ∧ (tick s = .next t → UnitInv t)

/-- Every data write to the prescale register stands between the sleep write with its delay and the wake write with
its delay, at address 0x40 with a prescale in 4..254, and every step keeps it so (R56, R60, T1, which the spec derives). -/
def Obligations.PrescaleWritesBracketed : Prop :=
  ∀ s t : State, s.ready → s.acceptsAll → Bracketed s.trace → step s = .next t → Bracketed t.trace

/-! ### The stage inside a command, and the assembler's operands -/

/-- The stage while a command is in progress, in the spec's event numbers: `SETFREQ` with `f > 0` is in `Sleeping` from
the completion of its event 3 to that of its event 12, `BEGIN` from that of event 12 to that of event 21, `RESET` is in
`Uninitialized` from that of event 3 on, and no other word moves the stage (R11, R57, R69, R76, V-STAGE; decisions D17,
D29). Said of every busy state that smallest steps from acceptance lead to, whatever the transport does; and with a
transport that accepts every event each number of completed events is reached. -/
def Obligations.StageInsideCommand : Prop :=
  ∀ (s : State) (w : Word) (rest : List Word), s.ready → s.host = w :: rest →
    (∀ n t, ticks n s = .next t → t.busy = true → t.host = rest →
      ∃ k ≤ (planOfWord w s.stage).ops.length, t.trace.length = s.trace.length + k ∧
        t.stage = stageInside (decode w) k s.stage ∧ t.stageOut = (stageInside (decode w) k s.stage).code) ∧
    (s.acceptsAll → ∀ k ≤ (planOfWord w s.stage).ops.length,
      ∃ n t, ticks n s = .next t ∧ t.busy = true ∧ t.host = rest ∧ t.trace.length = s.trace.length + k ∧
        t.stage = stageInside (decode w) k s.stage)

/-- The assembler keeps every decimal operand as it is written, and rejects a literal out of range, never wrapping it
(R50, R51; decision D2). -/
def Obligations.AssemblerKeepsOperands : Prop :=
  ∀ (chan value hz : Int) (sel val addr reg raw : Nat),
    assembleLine ("SETMODE " ++ toString sel ++ ", " ++ toString val).toList =
      (if sel ≤ 255 ∧ val ≤ 255 then .instr (.setmode (BitVec.ofNat 8 sel) (BitVec.ofNat 8 val)) else .rejected) ∧
    assembleLine ("SETFREQ " ++ toString hz).toList =
      (if -32768 ≤ hz ∧ hz ≤ 32767 then .instr (.setfreq (65536 * hz)) else .rejected) ∧
    assembleLine ("SETFREQ #" ++ toString raw).toList =
      (if raw ≤ 0xFFFFFFFF then .instr (.setfreq (BitVec.ofNat 32 raw).toInt) else .rejected) ∧
    assembleLine ("AWRITE " ++ toString chan ++ ", " ++ toString value ++ ", " ++ toString addr).toList =
      (if -128 ≤ chan ∧ chan ≤ 127 ∧ -32768 ≤ value ∧ value ≤ 32767 ∧ addr ≤ 255 then
        .instr (.awrite (BitVec.ofNat 8 addr) chan value) else .rejected) ∧
    assembleLine ("AWRITE " ++ toString chan ++ ", " ++ toString value).toList =
      (if -128 ≤ chan ∧ chan ≤ 127 ∧ -32768 ≤ value ∧ value ≤ 32767 then .instr (.awrite 0x40 chan value)
        else .rejected) ∧
    assembleLine ("READ " ++ toString addr ++ ", " ++ toString reg).toList =
      (if addr ≤ 255 ∧ reg ≤ 255 then .instr (.read (BitVec.ofNat 8 addr) (BitVec.ofNat 8 reg)) else .rejected)
end

