-- ==== Sys2Proof/Laws/Encoding.lean ====
section
/-! SUPPORT. The fields of a command word put together from an opcode byte and 32 operand bits. -/

namespace Sys2Proof

/-- The top byte of an opcode byte followed by 32 operand bits is the opcode byte. -/
theorem opField_append (op : Byte) (arg : BitVec 32) : opField (op ++ arg) = op := by
  show BitVec.extractLsb' 32 8 (op ++ arg : BitVec (8 + 32)) = op
  apply BitVec.eq_of_getLsbD_eq
  intro k hk
  rw [BitVec.getLsbD_extractLsb', BitVec.getLsbD_append]
  simp [hk]

/-- A field inside the operand half does not see the opcode. -/
theorem extract_operand (op : Byte) (arg : BitVec 32) (lo n : Nat) (h : lo + n ≤ 32) :
    BitVec.extractLsb' lo n (op ++ arg : BitVec (8 + 32)) = arg.extractLsb' lo n := by
  apply BitVec.eq_of_getLsbD_eq
  intro k hk
  have : lo + k < 32 := by omega
  rw [BitVec.getLsbD_extractLsb', BitVec.getLsbD_append, BitVec.getLsbD_extractLsb']
  simp [hk, this]

/-- Which of two adjacent parts of a word a bit lies in. -/
theorem getLsbD_parts {n m : Nat} (x : BitVec n) (y : BitVec m) (k : Nat) :
    (x ++ y).getLsbD k = if k < m then y.getLsbD k else x.getLsbD (k - m) := by
  exact BitVec.getLsbD_append

end Sys2Proof
end

