-- ==== Sys2Proof/Laws/Memory.lean ====
section
/-! SUPPORT. The laws of the observer's byte map (R37): read after write, everything else untouched, and the canonical
form kept by every operation. -/

namespace Sys2Proof.Machine

@[simp] theorem Memory.read_nil (k : Nat) : Memory.read [] k = none := rfl

/-- A location written reads as the byte written. -/
theorem Memory.read_write_same (m : Memory) (k : Nat) (v : Byte) : (m.write k v).read k = some v := by
  induction m with
  | nil => simp [Memory.write, Memory.read]
  | cons c rest ih =>
    unfold Memory.write
    split
    · simp [Memory.read]
    · split
      · simp [Memory.read]
      · rename_i hne; simp [Memory.read, hne]; exact ih

/-- A write leaves every other location alone. -/
theorem Memory.read_write_other (m : Memory) {j k : Nat} (v : Byte) (h : j ≠ k) : (m.write k v).read j = m.read j := by
  induction m with
  | nil => simp [Memory.write, Memory.read, h.symm]
  | cons c rest ih =>
    unfold Memory.write
    split
    · simp [Memory.read, h.symm]
    · split
      · rename_i hc; simp [Memory.read, h.symm, hc]
      · simp only [Memory.read]; split
        · rfl
        · exact ih

/-- Whether a map's first address, if any, lies above `k`. -/
def Memory.above (m : Memory) (k : Nat) : Prop :=
  match m with
  | [] => True
  | c :: _ => k < c.1

theorem Memory.wf_cons (c : Host.Cell) (m : Memory) : Memory.wf (c :: m) = true ↔ m.above c.1 ∧ m.wf = true := by
  cases m <;> simp [Memory.wf, Memory.above]

theorem Memory.above_write {m : Memory} {j k : Nat} {v : Byte} (hm : m.above j) (h : j < k) :
    (m.write k v).above j := by
  cases m with
  | nil => exact h
  | cons c rest =>
    unfold Memory.write
    split
    · exact h
    · split
      · exact h
      · exact hm

/-- A write keeps the canonical form. -/
theorem Memory.wf_write (m : Memory) (k : Nat) (v : Byte) (h : m.wf = true) : (m.write k v).wf = true := by
  induction m with
  | nil => rfl
  | cons c rest ih =>
    obtain ⟨ha, hr⟩ := (Memory.wf_cons c rest).mp h
    unfold Memory.write
    split
    · rename_i hk; exact (Memory.wf_cons _ _).mpr ⟨hk, h⟩
    · split
      · rename_i hc; exact (Memory.wf_cons _ _).mpr ⟨by rw [← hc]; exact ha, hr⟩
      · rename_i h1 h2
        exact (Memory.wf_cons _ _).mpr ⟨Memory.above_write ha (by omega), ih hr⟩

/-- A transaction's bytes keep the canonical form. -/
theorem wf_storeBytes (a r : Byte) (data : List Byte) (m : Memory) (h : m.wf = true) :
    (storeBytes a r data m).wf = true := by
  induction data generalizing r m with
  | nil => exact h
  | cons d rest ih => exact ih (r + 1) _ (Memory.wf_write m _ d h)

/-- Two locations are the same only if both addresses are (R23). -/
theorem location_inj {a b r q : Byte} : location a r = location b q ↔ a = b ∧ r = q := by
  constructor
  · intro h
    have h1 := r.isLt
    have h2 := q.isLt
    simp only [location] at h
    exact ⟨BitVec.eq_of_toNat_eq (by omega), BitVec.eq_of_toNat_eq (by omega)⟩
  · rintro ⟨rfl, rfl⟩; rfl

/-! ### The transactions of a trace -/

/-- The open transaction after a trace begun inside `cur`. -/
def openTxAfter (cur : OpenTx) (tr : List Event) : OpenTx := tr.foldl OpenTx.next cur

theorem regWritesFrom_append (cur : OpenTx) (xs ys : List Event) :
    regWritesFrom cur (xs ++ ys) = regWritesFrom cur xs ++ regWritesFrom (openTxAfter cur xs) ys := by
  induction xs generalizing cur with
  | nil => rfl
  | cons e xs ih => simp [regWritesFrom, openTxAfter, ih]

/-- A trace that begins with a `Begin` has the same transactions whatever was open before it. -/
theorem regWritesFrom_beginTx (cur : OpenTx) (a : Byte) (es : List Event) :
    regWritesFrom cur (.beginTx a :: es) = regWrites (.beginTx a :: es) := by
  cases cur <;> simp [regWrites, regWritesFrom, OpenTx.next, OpenTx.completed]

/-- Appending events that begin with a `Begin` appends their transactions to the image (R37). -/
theorem imageOf_append_beginTx (tr : List Event) (a : Byte) (es : List Event) :
    imageOf (tr ++ .beginTx a :: es) = (regWrites (.beginTx a :: es)).foldl RegWrite.store (imageOf tr) := by
  simp only [imageOf, regWrites, regWritesFrom_append, List.foldl_append]
  rw [regWritesFrom_beginTx]; rfl

/-- A byte outside a transaction's data reads as before. -/
theorem read_storeBytes_other (a r b q : Byte) (data : List Byte) (m : Memory)
    (h : ¬ (b = a ∧ ∃ i < data.length, q = r + BitVec.ofNat 8 i)) :
    (storeBytes a r data m).read (location b q) = m.read (location b q) := by
  induction data generalizing r m with
  | nil => rfl
  | cons d rest ih =>
    have hne : location b q ≠ location a r := fun hl =>
      h ⟨(location_inj.mp hl).1, 0, by simp, by simp [(location_inj.mp hl).2]⟩
    rw [storeBytes, ih (r + 1), Memory.read_write_other m d hne]
    rintro ⟨hb, i, hi, hq⟩
    refine h ⟨hb, i + 1, by simpa using hi, ?_⟩
    rw [hq, BitVec.ofNat_add]
    ac_rfl

end Sys2Proof.Machine
end

