-- ==== Sys2Proof/Laws/Operands.lean ====
section
/-! SUPPORT. The operand computations by cases: one lemma for each clamp, and the plan of each kind of `SETFREQ`. -/

namespace Sys2Proof.Machine

theorem clampChannel_cases (c : Int) :
    clampChannel c = if c < 0 then 0 else if 15 < c then 15 else c.toNat := by
  unfold clampChannel clamp; split_ifs <;> rfl

theorem clampValue_cases (v : Int) :
    clampValue v = if v < 0 then 0 else if 4095 < v then 4095 else v.toNat := by
  unfold clampValue clamp valueMax; split_ifs <;> first | rfl | omega

theorem clampFreq_cases (f : Int) :
    clampFreq f = if f < 1572864 then 1572864 else if 100007936 < f then 100007936 else f.toNat := by
  unfold clampFreq clamp fMin fMax rawPerHz; split_ifs <;> first | rfl | omega

/-- An effective frequency lies between 24 and 1526 Hz (R53). -/
theorem clampFreq_range (f : Int) : 1572864 ≤ clampFreq f ∧ clampFreq f ≤ 100007936 := by
  rw [clampFreq_cases]; split_ifs <;> omega

theorem freqClass_cases (f : Int) :
    freqClass f = if f ≤ 0 then .blank else if f < 1572864 then .low else if f ≤ 100007936 then .inRange else .high := by
  unfold freqClass fMin fMax rawPerHz; split_ifs <;> first | rfl | omega

theorem setfreqPlan_of_pos {f : Int} (h : 0 < f) (st : Stage) :
    setfreqPlan f st = okPlan (freqProgram (clampFreq f) st) := by
  unfold setfreqPlan; rw [freqClass_cases]
  split_ifs <;> first | omega | rfl

theorem setfreqPlan_of_nonpos {f : Int} (h : f ≤ 0) (st : Stage) : setfreqPlan f st = clearPlan := by
  simp [setfreqPlan, freqClass, h, clearPlan]

theorem setmodePlan_of_invalid {sel val : Byte} (h1 : sel ≠ 1) (h2 : sel ≠ 2) : setmodePlan sel val = errorPlan .fail := by
  rw [setmodePlan, if_neg h1, if_neg h2]

end Sys2Proof.Machine
end

