-- ==== Sys2Proof/Laws/State.lean ====
section
/-! SUPPORT. What each named update of State does to each field: one lemma per field and update. -/

namespace Sys2Proof.Machine

variable (s : State)

@[simp] theorem State.emit_stage (e : Event) : (s.emit e).stage = s.stage := rfl
@[simp] theorem State.emit_busy (e : Event) : (s.emit e).busy = s.busy := rfl
@[simp] theorem State.emit_cmdQ (e : Event) : (s.emit e).cmdQ = s.cmdQ := rfl
@[simp] theorem State.emit_seqStep (e : Event) : (s.emit e).seqStep = s.seqStep := rfl
@[simp] theorem State.emit_chan (e : Event) : (s.emit e).chan = s.chan := rfl
@[simp] theorem State.emit_timer (e : Event) : (s.emit e).timer = s.timer := rfl
@[simp] theorem State.emit_entryStage (e : Event) : (s.emit e).entryStage = s.entryStage := rfl
@[simp] theorem State.emit_readByte (e : Event) : (s.emit e).readByte = s.readByte := rfl
@[simp] theorem State.emit_rspValid (e : Event) : (s.emit e).rspValid = s.rspValid := rfl
@[simp] theorem State.emit_rspStatus (e : Event) : (s.emit e).rspStatus = s.rspStatus := rfl
@[simp] theorem State.emit_rspData (e : Event) : (s.emit e).rspData = s.rspData := rfl
@[simp] theorem State.emit_openTx (e : Event) : (s.emit e).openTx = s.openTx := rfl
@[simp] theorem State.emit_host (e : Event) : (s.emit e).host = s.host := rfl
@[simp] theorem State.emit_resetIn (e : Event) : (s.emit e).resetIn = s.resetIn := rfl
@[simp] theorem State.emit_tReady (e : Event) : (s.emit e).tReady = s.tReady := rfl
@[simp] theorem State.emit_answers (e : Event) : (s.emit e).answers = s.answers := rfl
@[simp] theorem State.emit_trace (e : Event) : (s.emit e).trace = s.trace ++ [e] := rfl
@[simp] theorem State.emit_responses (e : Event) : (s.emit e).responses = s.responses := rfl
@[simp] theorem State.emit_freeIndex (e : Event) : (s.emit e).freeIndex = s.freeIndex := rfl

@[simp] theorem State.useTransport_stage : s.useTransport.stage = s.stage := rfl
@[simp] theorem State.useTransport_busy : s.useTransport.busy = s.busy := rfl
@[simp] theorem State.useTransport_cmdQ : s.useTransport.cmdQ = s.cmdQ := rfl
@[simp] theorem State.useTransport_seqStep : s.useTransport.seqStep = s.seqStep := rfl
@[simp] theorem State.useTransport_chan : s.useTransport.chan = s.chan := rfl
@[simp] theorem State.useTransport_timer : s.useTransport.timer = s.timer := rfl
@[simp] theorem State.useTransport_entryStage : s.useTransport.entryStage = s.entryStage := rfl
@[simp] theorem State.useTransport_readByte : s.useTransport.readByte = s.readByte := rfl
@[simp] theorem State.useTransport_rspValid : s.useTransport.rspValid = s.rspValid := rfl
@[simp] theorem State.useTransport_rspStatus : s.useTransport.rspStatus = s.rspStatus := rfl
@[simp] theorem State.useTransport_rspData : s.useTransport.rspData = s.rspData := rfl
@[simp] theorem State.useTransport_openTx : s.useTransport.openTx = s.openTx := rfl
@[simp] theorem State.useTransport_host : s.useTransport.host = s.host := rfl
@[simp] theorem State.useTransport_resetIn : s.useTransport.resetIn = s.resetIn := rfl
@[simp] theorem State.useTransport_tReady : s.useTransport.tReady = s.tReady.map (fun n => n - 1) := rfl
@[simp] theorem State.useTransport_answers : s.useTransport.answers = s.answers := rfl
@[simp] theorem State.useTransport_trace : s.useTransport.trace = s.trace := rfl
@[simp] theorem State.useTransport_responses : s.useTransport.responses = s.responses := rfl
@[simp] theorem State.useTransport_freeIndex : s.useTransport.freeIndex = s.freeIndex := rfl

@[simp] theorem State.sampleRead_stage : s.sampleRead.stage = s.stage := rfl
@[simp] theorem State.sampleRead_busy : s.sampleRead.busy = s.busy := rfl
@[simp] theorem State.sampleRead_cmdQ : s.sampleRead.cmdQ = s.cmdQ := rfl
@[simp] theorem State.sampleRead_seqStep : s.sampleRead.seqStep = s.seqStep := rfl
@[simp] theorem State.sampleRead_chan : s.sampleRead.chan = s.chan := rfl
@[simp] theorem State.sampleRead_timer : s.sampleRead.timer = s.timer := rfl
@[simp] theorem State.sampleRead_entryStage : s.sampleRead.entryStage = s.entryStage := rfl
@[simp] theorem State.sampleRead_readByte : s.sampleRead.readByte = s.nextAnswer := rfl
@[simp] theorem State.sampleRead_rspValid : s.sampleRead.rspValid = s.rspValid := rfl
@[simp] theorem State.sampleRead_rspStatus : s.sampleRead.rspStatus = s.rspStatus := rfl
@[simp] theorem State.sampleRead_rspData : s.sampleRead.rspData = s.rspData := rfl
@[simp] theorem State.sampleRead_openTx : s.sampleRead.openTx = s.openTx := rfl
@[simp] theorem State.sampleRead_host : s.sampleRead.host = s.host := rfl
@[simp] theorem State.sampleRead_resetIn : s.sampleRead.resetIn = s.resetIn := rfl
@[simp] theorem State.sampleRead_tReady : s.sampleRead.tReady = s.tReady := rfl
@[simp] theorem State.sampleRead_answers : s.sampleRead.answers = s.answers.tail := rfl
@[simp] theorem State.sampleRead_trace : s.sampleRead.trace = s.trace := rfl
@[simp] theorem State.sampleRead_responses : s.sampleRead.responses = s.responses := rfl
@[simp] theorem State.sampleRead_freeIndex : s.sampleRead.freeIndex = s.freeIndex + 1 := rfl

@[simp] theorem State.setOpenTx_stage (a : Option Byte) : (s.setOpenTx a).stage = s.stage := rfl
@[simp] theorem State.setOpenTx_busy (a : Option Byte) : (s.setOpenTx a).busy = s.busy := rfl
@[simp] theorem State.setOpenTx_cmdQ (a : Option Byte) : (s.setOpenTx a).cmdQ = s.cmdQ := rfl
@[simp] theorem State.setOpenTx_seqStep (a : Option Byte) : (s.setOpenTx a).seqStep = s.seqStep := rfl
@[simp] theorem State.setOpenTx_chan (a : Option Byte) : (s.setOpenTx a).chan = s.chan := rfl
@[simp] theorem State.setOpenTx_timer (a : Option Byte) : (s.setOpenTx a).timer = s.timer := rfl
@[simp] theorem State.setOpenTx_entryStage (a : Option Byte) : (s.setOpenTx a).entryStage = s.entryStage := rfl
@[simp] theorem State.setOpenTx_readByte (a : Option Byte) : (s.setOpenTx a).readByte = s.readByte := rfl
@[simp] theorem State.setOpenTx_rspValid (a : Option Byte) : (s.setOpenTx a).rspValid = s.rspValid := rfl
@[simp] theorem State.setOpenTx_rspStatus (a : Option Byte) : (s.setOpenTx a).rspStatus = s.rspStatus := rfl
@[simp] theorem State.setOpenTx_rspData (a : Option Byte) : (s.setOpenTx a).rspData = s.rspData := rfl
@[simp] theorem State.setOpenTx_openTx (a : Option Byte) : (s.setOpenTx a).openTx = a := rfl
@[simp] theorem State.setOpenTx_host (a : Option Byte) : (s.setOpenTx a).host = s.host := rfl
@[simp] theorem State.setOpenTx_resetIn (a : Option Byte) : (s.setOpenTx a).resetIn = s.resetIn := rfl
@[simp] theorem State.setOpenTx_tReady (a : Option Byte) : (s.setOpenTx a).tReady = s.tReady := rfl
@[simp] theorem State.setOpenTx_answers (a : Option Byte) : (s.setOpenTx a).answers = s.answers := rfl
@[simp] theorem State.setOpenTx_trace (a : Option Byte) : (s.setOpenTx a).trace = s.trace := rfl
@[simp] theorem State.setOpenTx_responses (a : Option Byte) : (s.setOpenTx a).responses = s.responses := rfl
@[simp] theorem State.setOpenTx_freeIndex (a : Option Byte) : (s.setOpenTx a).freeIndex = s.freeIndex := rfl

@[simp] theorem State.setTimer_stage (t : Option Nat) : (s.setTimer t).stage = s.stage := rfl
@[simp] theorem State.setTimer_busy (t : Option Nat) : (s.setTimer t).busy = s.busy := rfl
@[simp] theorem State.setTimer_cmdQ (t : Option Nat) : (s.setTimer t).cmdQ = s.cmdQ := rfl
@[simp] theorem State.setTimer_seqStep (t : Option Nat) : (s.setTimer t).seqStep = s.seqStep := rfl
@[simp] theorem State.setTimer_chan (t : Option Nat) : (s.setTimer t).chan = s.chan := rfl
@[simp] theorem State.setTimer_timer (t : Option Nat) : (s.setTimer t).timer = t := rfl
@[simp] theorem State.setTimer_entryStage (t : Option Nat) : (s.setTimer t).entryStage = s.entryStage := rfl
@[simp] theorem State.setTimer_readByte (t : Option Nat) : (s.setTimer t).readByte = s.readByte := rfl
@[simp] theorem State.setTimer_rspValid (t : Option Nat) : (s.setTimer t).rspValid = s.rspValid := rfl
@[simp] theorem State.setTimer_rspStatus (t : Option Nat) : (s.setTimer t).rspStatus = s.rspStatus := rfl
@[simp] theorem State.setTimer_rspData (t : Option Nat) : (s.setTimer t).rspData = s.rspData := rfl
@[simp] theorem State.setTimer_openTx (t : Option Nat) : (s.setTimer t).openTx = s.openTx := rfl
@[simp] theorem State.setTimer_host (t : Option Nat) : (s.setTimer t).host = s.host := rfl
@[simp] theorem State.setTimer_resetIn (t : Option Nat) : (s.setTimer t).resetIn = s.resetIn := rfl
@[simp] theorem State.setTimer_tReady (t : Option Nat) : (s.setTimer t).tReady = s.tReady := rfl
@[simp] theorem State.setTimer_answers (t : Option Nat) : (s.setTimer t).answers = s.answers := rfl
@[simp] theorem State.setTimer_trace (t : Option Nat) : (s.setTimer t).trace = s.trace := rfl
@[simp] theorem State.setTimer_responses (t : Option Nat) : (s.setTimer t).responses = s.responses := rfl
@[simp] theorem State.setTimer_freeIndex (t : Option Nat) : (s.setTimer t).freeIndex = s.freeIndex := rfl

@[simp] theorem State.writeStage_stage (st : Option Stage) : (s.writeStage st).stage = st.getD s.stage := rfl
@[simp] theorem State.writeStage_busy (st : Option Stage) : (s.writeStage st).busy = s.busy := rfl
@[simp] theorem State.writeStage_cmdQ (st : Option Stage) : (s.writeStage st).cmdQ = s.cmdQ := rfl
@[simp] theorem State.writeStage_seqStep (st : Option Stage) : (s.writeStage st).seqStep = s.seqStep := rfl
@[simp] theorem State.writeStage_chan (st : Option Stage) : (s.writeStage st).chan = s.chan := rfl
@[simp] theorem State.writeStage_timer (st : Option Stage) : (s.writeStage st).timer = s.timer := rfl
@[simp] theorem State.writeStage_entryStage (st : Option Stage) : (s.writeStage st).entryStage = s.entryStage := rfl
@[simp] theorem State.writeStage_readByte (st : Option Stage) : (s.writeStage st).readByte = s.readByte := rfl
@[simp] theorem State.writeStage_rspValid (st : Option Stage) : (s.writeStage st).rspValid = s.rspValid := rfl
@[simp] theorem State.writeStage_rspStatus (st : Option Stage) : (s.writeStage st).rspStatus = s.rspStatus := rfl
@[simp] theorem State.writeStage_rspData (st : Option Stage) : (s.writeStage st).rspData = s.rspData := rfl
@[simp] theorem State.writeStage_openTx (st : Option Stage) : (s.writeStage st).openTx = s.openTx := rfl
@[simp] theorem State.writeStage_host (st : Option Stage) : (s.writeStage st).host = s.host := rfl
@[simp] theorem State.writeStage_resetIn (st : Option Stage) : (s.writeStage st).resetIn = s.resetIn := rfl
@[simp] theorem State.writeStage_tReady (st : Option Stage) : (s.writeStage st).tReady = s.tReady := rfl
@[simp] theorem State.writeStage_answers (st : Option Stage) : (s.writeStage st).answers = s.answers := rfl
@[simp] theorem State.writeStage_trace (st : Option Stage) : (s.writeStage st).trace = s.trace := rfl
@[simp] theorem State.writeStage_responses (st : Option Stage) : (s.writeStage st).responses = s.responses := rfl
@[simp] theorem State.writeStage_freeIndex (st : Option Stage) : (s.writeStage st).freeIndex = s.freeIndex := rfl

@[simp] theorem State.advance_stage (n : Bool) : (s.advance n).stage = s.stage := rfl
@[simp] theorem State.advance_busy (n : Bool) : (s.advance n).busy = s.busy := rfl
@[simp] theorem State.advance_cmdQ (n : Bool) : (s.advance n).cmdQ = s.cmdQ := rfl
@[simp] theorem State.advance_seqStep (n : Bool) : (s.advance n).seqStep = if n then 0 else s.seqStep + 1 := rfl
@[simp] theorem State.advance_chan (n : Bool) : (s.advance n).chan = if n then s.chan + 1 else s.chan := rfl
@[simp] theorem State.advance_timer (n : Bool) : (s.advance n).timer = s.timer := rfl
@[simp] theorem State.advance_entryStage (n : Bool) : (s.advance n).entryStage = s.entryStage := rfl
@[simp] theorem State.advance_readByte (n : Bool) : (s.advance n).readByte = s.readByte := rfl
@[simp] theorem State.advance_rspValid (n : Bool) : (s.advance n).rspValid = s.rspValid := rfl
@[simp] theorem State.advance_rspStatus (n : Bool) : (s.advance n).rspStatus = s.rspStatus := rfl
@[simp] theorem State.advance_rspData (n : Bool) : (s.advance n).rspData = s.rspData := rfl
@[simp] theorem State.advance_openTx (n : Bool) : (s.advance n).openTx = s.openTx := rfl
@[simp] theorem State.advance_host (n : Bool) : (s.advance n).host = s.host := rfl
@[simp] theorem State.advance_resetIn (n : Bool) : (s.advance n).resetIn = s.resetIn := rfl
@[simp] theorem State.advance_tReady (n : Bool) : (s.advance n).tReady = s.tReady := rfl
@[simp] theorem State.advance_answers (n : Bool) : (s.advance n).answers = s.answers := rfl
@[simp] theorem State.advance_trace (n : Bool) : (s.advance n).trace = s.trace := rfl
@[simp] theorem State.advance_responses (n : Bool) : (s.advance n).responses = s.responses := rfl
@[simp] theorem State.advance_freeIndex (n : Bool) : (s.advance n).freeIndex = s.freeIndex := rfl

@[simp] theorem State.startCommand_stage : s.startCommand.stage = s.stage := rfl
@[simp] theorem State.startCommand_busy : s.startCommand.busy = true := rfl
@[simp] theorem State.startCommand_cmdQ : s.startCommand.cmdQ = s.cmdQ := rfl
@[simp] theorem State.startCommand_seqStep : s.startCommand.seqStep = 0 := rfl
@[simp] theorem State.startCommand_chan : s.startCommand.chan = 0 := rfl
@[simp] theorem State.startCommand_timer : s.startCommand.timer = none := rfl
@[simp] theorem State.startCommand_entryStage : s.startCommand.entryStage = s.stage := rfl
@[simp] theorem State.startCommand_readByte : s.startCommand.readByte = s.readByte := rfl
@[simp] theorem State.startCommand_rspValid : s.startCommand.rspValid = s.rspValid := rfl
@[simp] theorem State.startCommand_rspStatus : s.startCommand.rspStatus = s.rspStatus := rfl
@[simp] theorem State.startCommand_rspData : s.startCommand.rspData = s.rspData := rfl
@[simp] theorem State.startCommand_openTx : s.startCommand.openTx = s.openTx := rfl
@[simp] theorem State.startCommand_host : s.startCommand.host = s.host := rfl
@[simp] theorem State.startCommand_resetIn : s.startCommand.resetIn = s.resetIn := rfl
@[simp] theorem State.startCommand_tReady : s.startCommand.tReady = s.tReady := rfl
@[simp] theorem State.startCommand_answers : s.startCommand.answers = s.answers := rfl
@[simp] theorem State.startCommand_trace : s.startCommand.trace = s.trace := rfl
@[simp] theorem State.startCommand_responses : s.startCommand.responses = s.responses := rfl
@[simp] theorem State.startCommand_freeIndex : s.startCommand.freeIndex = s.freeIndex := rfl

@[simp] theorem State.dropResponse_stage : s.dropResponse.stage = s.stage := rfl
@[simp] theorem State.dropResponse_busy : s.dropResponse.busy = s.busy := rfl
@[simp] theorem State.dropResponse_cmdQ : s.dropResponse.cmdQ = s.cmdQ := rfl
@[simp] theorem State.dropResponse_seqStep : s.dropResponse.seqStep = s.seqStep := rfl
@[simp] theorem State.dropResponse_chan : s.dropResponse.chan = s.chan := rfl
@[simp] theorem State.dropResponse_timer : s.dropResponse.timer = s.timer := rfl
@[simp] theorem State.dropResponse_entryStage : s.dropResponse.entryStage = s.entryStage := rfl
@[simp] theorem State.dropResponse_readByte : s.dropResponse.readByte = s.readByte := rfl
@[simp] theorem State.dropResponse_rspValid : s.dropResponse.rspValid = false := rfl
@[simp] theorem State.dropResponse_rspStatus : s.dropResponse.rspStatus = Config.freeRspStatus s.freeIndex := rfl
@[simp] theorem State.dropResponse_rspData : s.dropResponse.rspData = Config.freeRspData s.freeIndex := rfl
@[simp] theorem State.dropResponse_openTx : s.dropResponse.openTx = s.openTx := rfl
@[simp] theorem State.dropResponse_host : s.dropResponse.host = s.host := rfl
@[simp] theorem State.dropResponse_resetIn : s.dropResponse.resetIn = s.resetIn := rfl
@[simp] theorem State.dropResponse_tReady : s.dropResponse.tReady = s.tReady := rfl
@[simp] theorem State.dropResponse_answers : s.dropResponse.answers = s.answers := rfl
@[simp] theorem State.dropResponse_trace : s.dropResponse.trace = s.trace := rfl
@[simp] theorem State.dropResponse_responses : s.dropResponse.responses = s.responses := rfl
@[simp] theorem State.dropResponse_freeIndex : s.dropResponse.freeIndex = s.freeIndex + 1 := rfl

@[simp] theorem State.latch_stage (w : Word) (rest : List Word) : (s.latch w rest).stage = s.stage := rfl
@[simp] theorem State.latch_busy (w : Word) (rest : List Word) : (s.latch w rest).busy = s.busy := rfl
@[simp] theorem State.latch_cmdQ (w : Word) (rest : List Word) : (s.latch w rest).cmdQ = w := rfl
@[simp] theorem State.latch_seqStep (w : Word) (rest : List Word) : (s.latch w rest).seqStep = s.seqStep := rfl
@[simp] theorem State.latch_chan (w : Word) (rest : List Word) : (s.latch w rest).chan = s.chan := rfl
@[simp] theorem State.latch_timer (w : Word) (rest : List Word) : (s.latch w rest).timer = s.timer := rfl
@[simp] theorem State.latch_entryStage (w : Word) (rest : List Word) : (s.latch w rest).entryStage = s.entryStage := rfl
@[simp] theorem State.latch_readByte (w : Word) (rest : List Word) : (s.latch w rest).readByte = s.readByte := rfl
@[simp] theorem State.latch_rspValid (w : Word) (rest : List Word) : (s.latch w rest).rspValid = s.rspValid := rfl
@[simp] theorem State.latch_rspStatus (w : Word) (rest : List Word) : (s.latch w rest).rspStatus = s.rspStatus := rfl
@[simp] theorem State.latch_rspData (w : Word) (rest : List Word) : (s.latch w rest).rspData = s.rspData := rfl
@[simp] theorem State.latch_openTx (w : Word) (rest : List Word) : (s.latch w rest).openTx = s.openTx := rfl
@[simp] theorem State.latch_host (w : Word) (rest : List Word) : (s.latch w rest).host = rest := rfl
@[simp] theorem State.latch_resetIn (w : Word) (rest : List Word) : (s.latch w rest).resetIn = s.resetIn := rfl
@[simp] theorem State.latch_tReady (w : Word) (rest : List Word) : (s.latch w rest).tReady = s.tReady := rfl
@[simp] theorem State.latch_answers (w : Word) (rest : List Word) : (s.latch w rest).answers = s.answers := rfl
@[simp] theorem State.latch_trace (w : Word) (rest : List Word) : (s.latch w rest).trace = s.trace := rfl
@[simp] theorem State.latch_responses (w : Word) (rest : List Word) : (s.latch w rest).responses = s.responses := rfl
@[simp] theorem State.latch_freeIndex (w : Word) (rest : List Word) : (s.latch w rest).freeIndex = s.freeIndex := rfl

end Sys2Proof.Machine
end

