-- ==== Sys2Proof/Laws/Ops.lean ====
section
/-! SUPPORT. What the shared operations do, said once: one event, an event list, a whole command. -/

namespace Sys2Proof.Machine

/-! ### One event -/

theorem State.accepts_none {s : State} (h : s.tReady = none) (n : Nat) : s.accepts n := by
  simp [State.accepts, h]

theorem State.accepts_some {s : State} {k : Nat} (h : s.tReady = some k) (n : Nat) : s.accepts n ↔ n ≤ k := by
  simp [State.accepts, h]

theorem State.accepts_mono {s : State} {m n : Nat} (h : s.accepts n) (hm : m ≤ n) : s.accepts m := by
  cases ht : s.tReady with
  | none => exact State.accepts_none ht m
  | some k => rw [State.accepts_some ht] at *; omega

/-- The transport accepts the next event: the unit does not stall on it. -/
theorem not_stalledOn {s : State} (m : MicroOp) (h : s.accepts 1) : s.stalledOn m = false := by
  cases ht : s.tReady with
  | none => simp [State.stalledOn, ht]
  | some k =>
    rw [State.accepts_some ht] at h
    have : k ≠ 0 := by omega
    simp [State.stalledOn, ht, this]

/-- A delay needs no transport (R38). -/
theorem wait_not_stalledOn (s : State) {m : MicroOp} (h : m.op.onBus = false) : s.stalledOn m = false := by
  simp [State.stalledOn, h]

/-- The unit stalls on a bus event exactly when the transport accepts none any more (R92). -/
theorem stalledOn_iff (s : State) (m : MicroOp) : s.stalledOn m = true ↔ m.op.onBus = true ∧ s.tReady = some 0 := by
  simp [State.stalledOn]

/-- Everything one completed event does (R76): each field of the state after it. -/
theorem complete_spec (m : MicroOp) (s : State) :
    complete m s = { s with
      stage := m.stageAfter.getD s.stage
      seqStep := if m.nextChannel then 0 else s.seqStep + 1
      chan := if m.nextChannel then s.chan + 1 else s.chan
      timer := if m.op.onBus then s.timer else none
      readByte := if m.op = .read then s.nextAnswer else s.readByte
      openTx := match m.op with
        | .beginTx a => some a
        | .endTx => none
        | _ => s.openTx
      tReady := if m.op.onBus then s.tReady.map (fun n => n - 1) else s.tReady
      answers := if m.op = .read then s.answers.tail else s.answers
      trace := s.trace ++ [m.op.event s.nextAnswer]
      freeIndex := if m.op = .read then s.freeIndex + 1 else s.freeIndex } := by
  obtain ⟨op, st, nx⟩ := m
  cases op <;> rfl

@[simp] theorem complete_busy (m : MicroOp) (s : State) : (complete m s).busy = s.busy := by simp [complete_spec]
@[simp] theorem complete_cmdQ (m : MicroOp) (s : State) : (complete m s).cmdQ = s.cmdQ := by simp [complete_spec]
@[simp] theorem complete_entryStage (m : MicroOp) (s : State) : (complete m s).entryStage = s.entryStage := by
  simp [complete_spec]
@[simp] theorem complete_rspValid (m : MicroOp) (s : State) : (complete m s).rspValid = s.rspValid := by
  simp [complete_spec]
@[simp] theorem complete_responses (m : MicroOp) (s : State) : (complete m s).responses = s.responses := by
  simp [complete_spec]
@[simp] theorem complete_host (m : MicroOp) (s : State) : (complete m s).host = s.host := by simp [complete_spec]
@[simp] theorem complete_resetIn (m : MicroOp) (s : State) : (complete m s).resetIn = s.resetIn := by
  simp [complete_spec]

/-- A bus event uses one of the events the transport will accept, a delay none. -/
theorem complete_accepts {s : State} {n : Nat} (m : MicroOp) (h : s.accepts (n + m.op.onBus.toNat)) :
    (complete m s).accepts n := by
  cases ht : s.tReady with
  | none => exact State.accepts_none (by simp [complete_spec, ht]) n
  | some k =>
    rw [State.accepts_some ht] at h
    cases hb : m.op.onBus
    · have : (complete m s).tReady = some k := by simp [complete_spec, hb, ht]
      rw [State.accepts_some this]; simp [hb] at h; exact h
    · have : (complete m s).tReady = some (k - 1) := by simp [complete_spec, hb, ht]
      rw [State.accepts_some this]; simp [hb] at h; omega

/-! ### An event list -/

/-- The state after the events of a list, each completing. -/
def completeAll (ops : List MicroOp) (s : State) : State := ops.foldl (fun q m => complete m q) s

@[simp] theorem completeAll_nil (s : State) : completeAll [] s = s := rfl
@[simp] theorem completeAll_cons (m : MicroOp) (ops : List MicroOp) (s : State) :
    completeAll (m :: ops) s = completeAll ops (complete m s) := rfl
theorem completeAll_append (xs ys : List MicroOp) (s : State) :
    completeAll (xs ++ ys) s = completeAll ys (completeAll xs s) := by
  simp [completeAll, List.foldl_append]

/-- How many events of a list are handed to the transport. -/
def busOps (ops : List MicroOp) : Nat := (ops.map (fun m => m.op.onBus.toNat)).sum

@[simp] theorem busOps_nil : busOps [] = 0 := rfl
@[simp] theorem busOps_cons (m : MicroOp) (ops : List MicroOp) :
    busOps (m :: ops) = m.op.onBus.toNat + busOps ops := by simp [busOps]
@[simp] theorem busOps_append (xs ys : List MicroOp) : busOps (xs ++ ys) = busOps xs + busOps ys := by
  simp [busOps]

@[simp] theorem perform_nil (p : Plan) (s : State) : perform p [] s = respond p s := by simp [perform]

theorem perform_cons_stall {p : Plan} {m : MicroOp} {ops : List MicroOp} {s : State} (h : s.stalledOn m = true) :
    perform p (m :: ops) s = s := by simp [perform, h]

theorem perform_cons_go {p : Plan} {m : MicroOp} {ops : List MicroOp} {s : State} (h : s.stalledOn m = false) :
    perform p (m :: ops) s = perform p ops (complete m s) := by simp [perform, h]

/-- A transport that accepts the events of a list lets the command run to its response (R78). -/
theorem perform_of_accepts (p : Plan) (ops : List MicroOp) (s : State) (h : s.accepts (busOps ops)) :
    perform p ops s = respond p (completeAll ops s) := by
  induction ops generalizing s with
  | nil => simp
  | cons m ops ih =>
    rw [busOps_cons] at h
    have hs : s.stalledOn m = false := by
      cases hb : m.op.onBus
      · exact wait_not_stalledOn s hb
      · exact not_stalledOn m (State.accepts_mono h (by simp [hb]))
    rw [perform_cons_go hs, completeAll_cons]
    exact ih _ (complete_accepts m (by rw [Nat.add_comm]; exact h))

/-- Whatever the transport does, a command stops after some of its events: at the response, or at a bus event the
transport never accepts (R92). -/
theorem perform_cases (p : Plan) (ops : List MicroOp) (s : State) :
    perform p ops s = respond p (completeAll ops s) ∨
    ∃ done m rest, ops = done ++ m :: rest ∧ perform p ops s = completeAll done s ∧
      (completeAll done s).stalledOn m = true := by
  induction ops generalizing s with
  | nil => exact .inl (by simp)
  | cons m ops ih =>
    cases hs : s.stalledOn m
    · rw [perform_cons_go hs]
      rcases ih (complete m s) with h | ⟨done, x, rest, rfl, h2, h3⟩
      · exact .inl h
      · exact .inr ⟨m :: done, x, rest, rfl, h2, h3⟩
    · exact .inr ⟨[], m, ops, rfl, perform_cons_stall hs, hs⟩

/-- A list is read-free when it holds no `Read`. -/
def readFree (ops : List MicroOp) : Bool := ops.all (fun m => decide (m.op ≠ .read))

/-- The transaction left open by an event list. -/
def openAfter (ops : List MicroOp) (cur : Option Byte) : Option Byte :=
  ops.foldl (fun c m => match m.op with
    | .beginTx a => some a
    | .endTx => none
    | _ => c) cur

/-- Whether an event list holds a delay, which leaves the timer idle. -/
def timerAfter (ops : List MicroOp) (t : Option Nat) : Option Nat :=
  ops.foldl (fun c m => if m.op.onBus then c else none) t

/-- The position after an event list begun at a position (R14). -/
def positionFrom (ops : List MicroOp) (p : BitVec 6 × BitVec 4) : BitVec 6 × BitVec 4 :=
  ops.foldl (fun p m => if m.nextChannel then (0, p.2 + 1) else (p.1 + 1, p.2)) p

theorem map_sub_sub (t : Option Nat) (a b : Nat) :
    (t.map (fun n => n - a)).map (fun n => n - b) = t.map (fun n => n - (a + b)) := by
  cases t <;> simp [Nat.sub_sub]

/-- Everything a read-free event list does. -/
theorem completeAll_spec (ops : List MicroOp) (s : State) (h : readFree ops = true) (b : Byte) :
    completeAll ops s = { s with
      stage := stageAfterOps ops s.stage
      seqStep := (positionFrom ops (s.seqStep, s.chan)).1
      chan := (positionFrom ops (s.seqStep, s.chan)).2
      timer := timerAfter ops s.timer
      openTx := openAfter ops s.openTx
      tReady := s.tReady.map (fun n => n - busOps ops)
      trace := s.trace ++ eventsOf ops b } := by
  induction ops generalizing s with
  | nil =>
    have : s.tReady.map (fun n => n - 0) = s.tReady := by cases s.tReady <;> simp
    simp [stageAfterOps, positionFrom, timerAfter, openAfter, eventsOf]
  | cons m ops ih =>
    have hm : m.op ≠ .read := by
      have := List.all_eq_true.mp h m (by simp); simpa using this
    have ho : readFree ops = true :=
      List.all_eq_true.mpr fun x hx => List.all_eq_true.mp h x (List.mem_cons_of_mem m hx)
    have hev : m.op.event s.nextAnswer = m.op.event b := by cases hop : m.op <;> simp_all [BusOp.event]
    rw [completeAll_cons, ih _ ho, complete_spec]
    simp only [hm, if_false, stageAfterOps, positionFrom, timerAfter, openAfter, eventsOf, List.foldl_cons,
      List.map_cons, busOps_cons, hev, List.append_assoc, List.singleton_append]
    congr 1
    · cases m.nextChannel <;> rfl
    · cases m.nextChannel <;> rfl
    · cases m.op.onBus
      · simp
      · simp only [if_true, map_sub_sub, Bool.toNat_true]

/-! ### A whole command -/

@[simp] theorem respond_busy (p : Plan) (s : State) : (respond p s).busy = false := rfl
@[simp] theorem respond_stage (p : Plan) (s : State) : (respond p s).stage = s.stage := rfl
@[simp] theorem respond_seqStep (p : Plan) (s : State) : (respond p s).seqStep = 0 := rfl
@[simp] theorem respond_chan (p : Plan) (s : State) : (respond p s).chan = 0 := rfl
@[simp] theorem respond_timer (p : Plan) (s : State) : (respond p s).timer = none := rfl
@[simp] theorem respond_entryStage (p : Plan) (s : State) : (respond p s).entryStage = s.entryStage := rfl
@[simp] theorem respond_readByte (p : Plan) (s : State) : (respond p s).readByte = s.readByte := rfl
@[simp] theorem respond_rspValid (p : Plan) (s : State) : (respond p s).rspValid = true := rfl
@[simp] theorem respond_rspStatus (p : Plan) (s : State) : (respond p s).rspStatus = p.status.code := rfl
@[simp] theorem respond_rspData (p : Plan) (s : State) :
    (respond p s).rspData = if p.answersRead then s.readByte else 0x00 := rfl
@[simp] theorem respond_openTx (p : Plan) (s : State) : (respond p s).openTx = s.openTx := rfl
@[simp] theorem respond_host (p : Plan) (s : State) : (respond p s).host = s.host := rfl
@[simp] theorem respond_resetIn (p : Plan) (s : State) : (respond p s).resetIn = s.resetIn := rfl
@[simp] theorem respond_tReady (p : Plan) (s : State) : (respond p s).tReady = s.tReady := rfl
@[simp] theorem respond_answers (p : Plan) (s : State) : (respond p s).answers = s.answers := rfl
@[simp] theorem respond_trace (p : Plan) (s : State) : (respond p s).trace = s.trace := rfl
@[simp] theorem respond_responses (p : Plan) (s : State) :
    (respond p s).responses =
      s.responses ++ [{ status := p.status, data := if p.answersRead then s.readByte else 0x00 }] := rfl

/-- `exec` is the big step of the command's event list (R9, R76). -/
theorem exec_eq_runPlan (i : Instr) (s : State) : exec i s = .next (runPlan (planOf i s.stage) s) := by
  cases i <;> rfl

/-- A transport that accepts the events of a command lets it run to its response. -/
theorem runPlan_of_accepts (p : Plan) (s : State) (h : s.accepts (busOps p.ops)) :
    runPlan p s = respond p (completeAll p.ops s.startCommand) :=
  perform_of_accepts p p.ops s.startCommand (by simpa [State.accepts] using h)

/-- The events a command is to run over: each event handed to the transport is one of its trace's bus events. -/
theorem busCount_eventsOf (ops : List MicroOp) (b : Byte) : busCount (eventsOf ops b) = busOps ops := by
  induction ops with
  | nil => rfl
  | cons m ops ih =>
    obtain ⟨op, st, nx⟩ := m
    cases op <;> simp_all [eventsOf, BusOp.event, busCount, BusOp.onBus, Nat.add_comm]

/-- A read-free command whose events the transport accepts and whose transactions are closed completes with its own
events, the stage its events write, and one response. -/
theorem runPlan_completes (p : Plan) (s : State) (b : Byte) (h : s.accepts (busOps p.ops))
    (hr : readFree p.ops = true) (ha : p.answersRead = false)
    (ho : openAfter p.ops s.openTx = if eventsOf p.ops b = [] then s.openTx else none) :
    Completes s (runPlan p s) (eventsOf p.ops b) (stageAfterOps p.ops s.stage) p.status 0 ∧
      ReadsNothing s (runPlan p s) := by
  rw [runPlan_of_accepts p s h, completeAll_spec p.ops s.startCommand hr b]
  refine ⟨⟨?_, ?_, ?_, ?_, ?_, ?_, ?_, ?_, ?_, ?_, ?_, ?_, ?_, ?_, ?_⟩, ⟨?_, ?_⟩⟩ <;>
    simp [ha, ho, busCount_eventsOf]

end Sys2Proof.Machine
end

