-- ==== Sys2Proof/Laws/PerInstr.lean ====
section
/-! SUPPORT. Statements about every command as syntax, one lemma per constructor. -/

namespace Sys2Proof.Laws.OpcodeIsPlaced

open Sys2Proof

/-- The command word holds the command's opcode in bits 39:32 (R39). -/
def Statement (i : Instr) : Prop := opField (encode i) = opcode i

theorem begin : Statement .begin := opField_append _ _
theorem setmode (sel val : Byte) : Statement (.setmode sel val) := opField_append _ _
theorem setfreq (freq : Int) : Statement (.setfreq freq) := opField_append _ _
theorem reset : Statement .reset := opField_append _ _
theorem clear : Statement .clear := opField_append _ _
theorem awrite (addr : Byte) (chan value : Int) : Statement (.awrite addr chan value) := opField_append _ _
theorem read (addr reg : Byte) : Statement (.read addr reg) := opField_append _ _

end Sys2Proof.Laws.OpcodeIsPlaced
end

