-- ==== Sys2Proof/Laws/SmallStep.lean ====
section
/-! SUPPORT. The small steps and the machine's step, said once: what one small step of a busy unit does, what a
completed event does to the position, and what a step of an idle unit does. -/

namespace Sys2Proof.Machine

/-- A busy unit with no event left responds (R76). -/
theorem busyTick_nil {s : State} (h : s.remaining = []) : busyTick s = respond s.plan s := by
  unfold busyTick; rw [h]

/-- A bus event is handed over, or the unit waits for ever (R76, R92). -/
theorem busyTick_onBus {s : State} {m : MicroOp} {rest : List MicroOp} (h : s.remaining = m :: rest)
    (hb : m.op.onBus = true) : busyTick s = if s.stalledOn m then s else complete m s := by
  obtain ⟨op, st, nx⟩ := m
  unfold busyTick; rw [h]
  cases op <;> first | rfl | cases hb

/-- A `Wait` begins by loading the timer (R15). -/
theorem busyTick_wait {s : State} {m : MicroOp} {rest : List MicroOp} {us : Nat} (h : s.remaining = m :: rest)
    (hw : m.op = .wait us) (ht : s.timer = none) : busyTick s = s.setTimer (some us) := by
  unfold busyTick; rw [h]; simp [hw, ht]

/-- A `Wait` whose timer runs always completes (R92). -/
theorem busyTick_waited {s : State} {m : MicroOp} {rest : List MicroOp} {us n : Nat} (h : s.remaining = m :: rest)
    (hw : m.op = .wait us) (ht : s.timer = some n) : busyTick s = complete m s := by
  have : s.stalledOn m = false := wait_not_stalledOn s (by rw [hw]; rfl)
  unfold busyTick; rw [h]; simp [hw, ht, this]

@[simp] theorem complete_plan (m : MicroOp) (s : State) : (complete m s).plan = s.plan := by simp [State.plan]

theorem complete_trace (m : MicroOp) (s : State) : (complete m s).trace = s.trace ++ [m.op.event s.nextAnswer] := by
  simp [complete_spec]

theorem positionAfter_snoc (ops : List MicroOp) (m : MicroOp) :
    positionAfter (ops ++ [m]) =
      if m.nextChannel then (0, (positionAfter ops).2 + 1) else ((positionAfter ops).1 + 1, (positionAfter ops).2) := by
  simp [positionAfter, List.foldl_append]

theorem stageAfterOps_snoc (ops : List MicroOp) (m : MicroOp) (st : Stage) :
    stageAfterOps (ops ++ [m]) st = m.stageAfter.getD (stageAfterOps ops st) := by
  simp [stageAfterOps, List.foldl_append]

/-- A completed event moves the position by one (R14). -/
theorem complete_position {m : MicroOp} {s : State} {done : List MicroOp}
    (h : (s.seqStep, s.chan) = positionAfter done) :
    ((complete m s).seqStep, (complete m s).chan) = positionAfter (done ++ [m]) := by
  rw [positionAfter_snoc, ← h]
  simp only [complete_spec]; cases m.nextChannel <;> rfl

/-- The timer being loaded first makes no difference to how a `Wait` completes. -/
theorem complete_setTimer {m : MicroOp} (s : State) (t : Option Nat) (h : m.op.onBus = false) :
    complete m (s.setTimer t) = complete m s := by
  obtain ⟨op, st, nx⟩ := m
  cases op <;> first | rfl | cases h

/-- An idle unit runs the plan of the word the host presents, legal or not (R9, R76, R81). -/
theorem step_of_ready {s : State} {w : Word} {rest : List Word} (h : s.ready) (hh : s.host = w :: rest) :
    step s = .next (runPlan (planOfWord w s.stage) (acceptWord w rest s)) := by
  obtain ⟨hr, hb⟩ := h
  cases hd : decode w with
  | instr i =>
    simp only [step, hr, hb, State.fetch, hh, planOfWord, hd, Bool.false_eq_true, if_false]
    exact exec_eq_runPlan i (acceptWord w rest s)
  | illegal op =>
    simp only [step, hr, hb, State.fetch, hh, planOfWord, hd, Bool.false_eq_true, if_false]
    rfl

/-- An idle unit with nothing presented idles (R93). -/
theorem step_of_ready_nil {s : State} (h : s.ready) (hh : s.host = []) : step s = .next (idleCycle s) := by
  simp [step, h.1, h.2, State.fetch, hh]

/-- A busy unit goes on with its command (R9). -/
theorem step_of_busy {s : State} (hr : s.resetIn = false) (hb : s.busy = true) : step s = .next (resume s) := by
  simp [step, hr, hb]

/-! ### The stage inside a command -/

theorem stageInside_zero (d : Decoded) (entry : Stage) : stageInside d 0 entry = entry := by
  unfold stageInside; split <;> first | rfl | simp

/-- The stage after one more event is the stage write of that event, if it has one (R76). -/
theorem stageInside_succ (d : Decoded) (k : Nat) (entry : Stage) :
    stageInside d (k + 1) entry = (stageWriteAfter d k entry).getD (stageInside d k entry) := by
  rcases d with i | op
  · cases i with
    | begin => simp only [stageInside, stageWriteAfter]; split_ifs <;> first | rfl | omega
    | setmode sel val => rfl
    | setfreq freq => simp only [stageInside, stageWriteAfter]; split_ifs <;> first | rfl | omega
    | reset => simp only [stageInside, stageWriteAfter]; split_ifs <;> first | rfl | omega
    | clear => rfl
    | awrite addr chan value => rfl
    | read addr reg => rfl
  · rfl

/-- A word that clears all channels has the event list of `CLEAR` (R59, R73). -/
theorem planOfWord_of_clears {w : Word} (h : clearsChannels (decode w) = true) (entry : Stage) :
    planOfWord w entry = clearPlan := by
  unfold planOfWord
  cases hd : decode w with
  | illegal op => rw [hd] at h; cases h
  | instr i =>
    rw [hd] at h
    cases i with
    | setfreq freq => exact setfreqPlan_of_nonpos (by simpa [clearsChannels] using h) entry
    | clear => rfl
    | begin => cases h
    | setmode sel val => cases h
    | reset => cases h
    | awrite addr chan value => cases h
    | read addr reg => cases h

end Sys2Proof.Machine
end

