-- ==== Sys2Proof/Tests/Slice0.lean ====
section
/-! SUPPORT. The model's own tests, with expected results from the spec's worked examples and vectors (95_test_vectors.md,
rule R52), and a witness for the hypotheses of each statement of the certificate. -/

namespace Sys2Proof.Tests

open Sys2Proof Sys2Proof.Machine

/-! ### WellFormed refuses what no command word holds -/

theorem test_wellFormed_freq : (Instr.setfreq 2147483648).wellFormed = false := by decide
theorem test_wellFormed_freq_low : (Instr.setfreq (-2147483649)).wellFormed = false := by decide
theorem test_wellFormed_chan : (Instr.awrite 0x40 128 0).wellFormed = false := by decide
theorem test_wellFormed_chan_low : (Instr.awrite 0x40 (-129) 0).wellFormed = false := by decide
theorem test_wellFormed_value : (Instr.awrite 0x40 0 32768).wellFormed = false := by decide
theorem test_wellFormed_value_low : (Instr.awrite 0x40 0 (-32769)).wellFormed = false := by decide
theorem test_wellFormed_bounds : (Instr.awrite 0x40 (-128) 32767).wellFormed = true := by decide

/-! ### Decoding, words written out field by field from R39 to R44 -/

/-- Format N, ignored bits set (V-SEQ row 3). -/
theorem test_decode_begin : decode 0b00000001_11011110101011011011111011101111 = .instr .begin := by decide
/-- Format M, ignored bits set (V-MODE row 6): sel = 2, val = 4. -/
theorem test_decode_setmode : decode 0b00000010_1010101111001101_00000010_00000100 = .instr (.setmode 2 4) := by decide
/-- Format F: the most negative operand (V-PRE last row). -/
theorem test_decode_setfreq : decode 0b00000011_10000000000000000000000000000000 = .instr (.setfreq (-2147483648)) := by
  decide
/-- Format N (R52). -/
theorem test_decode_reset : decode 0b00000100_00000000000000000000000000000000 = .instr .reset := by decide
/-- Format N (R52). -/
theorem test_decode_clear : decode 0b00000101_00000000000000000000000000000000 = .instr .clear := by decide
/-- Format W: addr 0x41, channel -3, value -7, both sign-extended (P2 line 3). -/
theorem test_decode_awrite : decode 0b00000110_01000001_11111101_1111111111111001 = .instr (.awrite 0x41 (-3) (-7)) := by
  decide
/-- Format R, ignored bits set (V-SEQ): addr 0x41, reg 0x06. -/
theorem test_decode_read : decode 0b00000111_1111111111111111_01000001_00000110 = .instr (.read 0x41 0x06) := by decide
/-- Opcodes 0x00, 0x08, 0xFF are illegal (V-SEQ). -/
theorem test_decode_illegal :
    decode 0x0000000000 = .illegal 0x00 ∧ decode 0x0800000000 = .illegal 0x08 ∧ decode 0xFF12345678 = .illegal 0xFF := by
  decide
/-- The table's rows reach the decoder (opcode_table.json). -/
theorem test_decodeTableWord :
    decodeTableWord 40 0x0641FF1388 = some (.awrite 0x41 (-1) 5000) ∧ decodeTableWord 40 0x0900000000 = none := by decide

/-! ### The assembler (R50 to R52) -/

theorem test_asm_begin : assembleWord "  BEGIN  ; start" = some 0x0100000000 := by decide
theorem test_asm_pseudo : assembleWord "AWRITE 3, 2048" = assembleWord "AWRITE 3, 2048, 0x40" := by decide
theorem test_asm_raw : assembleWord "SETFREQ #0x7FFFFFFF" = some 0x037FFFFFFF := by decide
/-- `hz * 65536` is no integer: rejected, never rounded (R50). -/
theorem test_asm_no_rounding : assembleLine "SETFREQ 0.1".toList = .rejected := by decide
theorem test_asm_range : assembleLine "AWRITE 128, 0".toList = .rejected ∧ assembleLine "READ -1, 0".toList = .rejected := by
  decide
theorem test_asm_case : assembleLine "clear".toList = .rejected ∧ assembleLine "; only a comment".toList = .blank := by decide

/-! ### The calculators -/

/-- V-PRE: the default point, both exact ties and a neighbour of each, 60 Hz where truncation differs. -/
theorem test_prescale :
    prescale 100007936 = 4 ∧ prescale 32000000 = 13 ∧ prescale 32000001 = 12 ∧ prescale 6400000 = 63 ∧
    prescale 6400001 = 62 ∧ prescale 3932160 = 102 ∧ prescale 3276800 = 122 ∧ prescale 1605632 = 249 := by decide
/-- V-PRE: the class boundaries. -/
theorem test_freqClass :
    freqClass 0 = .blank ∧ freqClass 1 = .low ∧ freqClass 0x17FFFF = .low ∧ freqClass 0x180000 = .inRange ∧
    freqClass 0x5F60000 = .inRange ∧ freqClass 0x5F60001 = .high ∧ freqClass (-1) = .blank := by decide
/-- V-DUTY and S1: payloads at the edges. -/
theorem test_payload :
    payload 4095 = [0x00, 0x10, 0x00, 0x00] ∧ payload 0 = [0x00, 0x00, 0x00, 0x10] ∧
    payload 4094 = [0x00, 0x00, 0xFE, 0x0F] ∧ payload 256 = [0x00, 0x00, 0x00, 0x01] ∧
    payload 2748 = [0x00, 0x00, 0xBC, 0x0A] := by decide
/-- V-DUTY: saturation, not wrapping, at both ends of both operands. -/
theorem test_clamps :
    clampChannel 16 = 15 ∧ clampChannel (-1) = 0 ∧ clampValue 4096 = 4095 ∧ clampValue (-1) = 0 := by decide
/-- R67: full-on is 4096 positions of 4096, not 4095. -/
theorem test_duty : dutyPositions 4095 = 4096 ∧ dutyPositions 4094 = 4094 ∧ dutyPositions 0 = 0 := by decide

/-! ### One step -/

/-- The state after a command whose word the host presents, from `s`. -/
def after (w : Word) (s : State) : State :=
  match step (s.present w) with
  | .next t => t
  | .fault _ => s
  | .refused _ => s

def running : State := { State.reset with stage := .running }

/-- V-SEQ: `BEGIN` from Uninitialized, 23 events, Running. -/
theorem test_begin_trace : (after 0x0100000000 State.reset).trace =
    [.setClock Config.busClockHz, .beginTx 0x40, .write 0x00, .write 0x20, .endTx, .beginTx 0x40, .write 0x01,
     .write 0x04, .endTx, .beginTx 0x40, .write 0x00, .write 0x30, .endTx, .wait 500, .beginTx 0x40, .write 0xFE,
     .write 0x04, .endTx, .beginTx 0x40, .write 0x00, .write 0x20, .endTx, .wait 500] := rfl
theorem test_begin_stage : (after 0x0100000000 State.reset).stage = .running ∧ (after 0x0100000000 State.reset).rspStatus = 0 := by
  decide
/-- V-MODE: `SETMODE 1, 0x30` leaves the stage, `SETMODE 3, 0xAA` fails with no event. -/
theorem test_setmode : (after 0x0200000130 running).trace = [.beginTx 0x40, .write 0x00, .write 0x30, .endTx] ∧
    (after 0x0200000130 running).stage = .running := by decide
theorem test_setmode_fail : (after 0x02000003AA running).trace = [] ∧
    (after 0x02000003AA running).responses = [{ status := .fail, data := 0 }] := by decide
/-- S5: `SETFREQ 50` writes prescale 0x7A and comes back to its stage. -/
theorem test_setfreq : (after 0x0300320000 State.reset).trace =
    [.beginTx 0x40, .write 0x00, .write 0x30, .endTx, .wait 500, .beginTx 0x40, .write 0xFE, .write 0x7A, .endTx,
     .beginTx 0x40, .write 0x00, .write 0x20, .endTx, .wait 500] ∧ (after 0x0300320000 State.reset).stage = .uninitialized := by
  decide
set_option maxRecDepth 4000 in
/-- S4c: `SETFREQ 0` does the sixteen channel writes. -/
theorem test_setfreq_blank : (after 0x0300000000 running).trace = clearAllEvents := rfl
/-- S9: `RESET`. -/
theorem test_reset : (after 0x0400000000 running).trace = [.beginTx 0x70, .write 0x00, .write 0x06, .endTx] ∧
    (after 0x0400000000 running).stage = .uninitialized := by decide
set_option maxRecDepth 4000 in
/-- S10: the ends of `CLEAR`'s trace. -/
theorem test_clear : (after 0x0500000000 running).trace.take 7 =
    [.beginTx 0x40, .write 0x06, .write 0x00, .write 0x00, .write 0x00, .write 0x10, .endTx] ∧
    (after 0x0500000000 running).trace.drop 105 =
    [.beginTx 0x40, .write 0x42, .write 0x00, .write 0x00, .write 0x00, .write 0x10, .endTx] := ⟨rfl, rfl⟩
/-- P2 line 3: both operands saturate to 0, at address 0x41. -/
theorem test_awrite_low : (after 0x0641FDFFF9 running).trace =
    [.beginTx 0x41, .write 0x06, .write 0x00, .write 0x00, .write 0x00, .write 0x10, .endTx] := by decide
/-- P2 line 2: both operands saturate to their upper bounds. -/
theorem test_awrite_high : (after 0x0641141388 running).trace =
    [.beginTx 0x41, .write 0x42, .write 0x00, .write 0x10, .write 0x00, .write 0x00, .endTx] := by decide
/-- V-SEQ: `READ 0x40, 0xFE` answered with 0x7A. -/
theorem test_read : (after 0x07000040FE { running with answers := [0x7A] }).trace =
    [.beginTx 0x40, .write 0xFE, .endTx, .beginTx 0x40, .read 0x7A, .endTx] ∧
    (after 0x07000040FE { running with answers := [0x7A] }).rspData = 0x7A := by decide
/-- V-SEQ: opcode 0x08. -/
theorem test_illegal : (after 0x0800000000 running).responses = [{ status := .illegal, data := 0 }] ∧
    (after 0x0800000000 running).trace = [] ∧ (after 0x0800000000 running).stage = .running := by decide
/-- V-HS-3: a transport that accepts nothing leaves an `AWRITE` busy at `step` 0, with no event. -/
theorem test_stall : (after 0x0640030800 { running with tReady := some 0 }).busy = true ∧
    (after 0x0640030800 { running with tReady := some 0 }).seqStep = 0 ∧
    (after 0x0640030800 { running with tReady := some 0 }).trace = [] := by decide
/-- V-STAGE: `SETFREQ 50` in Running, stalled after 4 and after 12 bus events: Sleeping after event 3, Running after
event 12. -/
theorem test_stage_inside : (after 0x0300320000 { running with tReady := some 3 }).stage = .running ∧
    (after 0x0300320000 { running with tReady := some 4 }).stage = .sleeping ∧
    (after 0x0300320000 { running with tReady := some 11 }).stage = .sleeping ∧
    (after 0x0300320000 { running with tReady := some 12 }).stage = .running := by decide
/-- R14: `CLEAR` stalled after 108 events stands at channel 15, step 3. -/
theorem test_clear_position : (after 0x0500000000 { running with tReady := some 108 }).chan = 15 ∧
    (after 0x0500000000 { running with tReady := some 108 }).seqStep = 3 := ⟨rfl, rfl⟩
/-- V-HS-1: the outputs after hardware reset. -/
theorem test_reset_ports : State.reset.cmdReady = true ∧ State.reset.rspValid = false ∧ State.reset.tValid = false ∧
    State.reset.stageOut = 0 := by decide
/-- P1: the image of an `AWRITE 0, 1024`, and a delay's lower bound. -/
theorem test_image : imageAt (after 0x0640000400 running).trace 0x40 0x09 = some 0x04 ∧
    imageAt (after 0x0640000400 running).trace 0x40 0x0A = none ∧ waitTotal (after 0x0300320000 running).trace = 1000 := by
  decide
/-- `t_kind` and `t_data` of the event presented in a stall (R38). -/
theorem test_presented : (after 0x0640030800 { running with tReady := some 1 }).presented = some (.write 0x12) ∧
    (BusOp.write 0x12).tKind = some 2 ∧ (BusOp.write 0x12).tDataByte = some 0x12 := by decide
/-- The observer's map is canonical before any event. -/
theorem test_reset_image : (imageOf State.reset.trace).wf = true := by decide

/-! ### Witnesses: for each statement with hypotheses, a state and operands that meet them -/

/-- A transport that accepts exactly `n` more events, from Running. -/
def accepting (n : Nat) : State := { running with tReady := some n }

/-- A unit that has completed `k` bus events of the command word `w` and stalls at the next. -/
def stalledAt (w : Word) (k : Nat) : State := after w (accepting k)

theorem witness_DecodeOfEncode : (Instr.setfreq (-2147483648)).wellFormed = true ∧
    (Instr.awrite 0xFF 127 (-32768)).wellFormed = true := by decide
theorem witness_EncodeOfDecode : decode 0x02ABCD0204 = .instr (.setmode 2 4) := by decide
theorem witness_IgnoredBitsDoNotMatter : decode 0x02ABCD0204 = .instr (.setmode 2 4) ∧
    (0x02ABCD0204 : Word) &&& usedBits (.setmode 2 4) = 0x0200000204 &&& usedBits (.setmode 2 4) := by decide
theorem witness_AssembledCommandsFit : assembleLine "AWRITE -128, 32767, 255".toList = .instr (.awrite 0xFF (-128) 32767) := by
  decide
theorem witness_HardwareReset_idle : { running with resetIn := true }.resetIn = true ∧
    { running with resetIn := true }.busy = false := by decide
theorem witness_HardwareReset_busy : { stalledAt 0x0640030800 0 with resetIn := true }.resetIn = true ∧
    { stalledAt 0x0640030800 0 with resetIn := true }.busy = true := by decide
theorem witness_StepRunsDecodedCommand : (running.present 0x0400000000).ready ∧
    (running.present 0x0400000000).host = [0x0400000000] ∧ decode 0x0400000000 = .instr .reset := by
  exact ⟨⟨rfl, rfl⟩, rfl, by decide⟩
theorem witness_IllegalOpcodeResponds : (running.present 0x0800000000).ready ∧
    (running.present 0x0800000000).host = [0x0800000000] ∧ decode 0x0800000000 = .illegal 0x08 ∧
    decode 0xFF00000000 = .illegal 0xFF ∧ decode 0x00FFFFFFFF = .illegal 0x00 := by
  exact ⟨⟨rfl, rfl⟩, rfl, by decide⟩
theorem witness_IdleUnitDoesNothing : running.ready ∧ running.host = [] := ⟨⟨rfl, rfl⟩, rfl⟩
theorem witness_BusyUnitHoldsItsCommand : (stalledAt 0x0640030800 2).busy = true ∧
    tick (stalledAt 0x0640030800 2) = .next (stalledAt 0x0640030800 2) := ⟨rfl, rfl⟩
theorem witness_PresentedEventIsHandedOver :
    { stalledAt 0x0500000000 6 with tReady := some 1 }.resetIn = false ∧
    { stalledAt 0x0500000000 6 with tReady := some 1 }.presented = some .endTx ∧
    { stalledAt 0x0500000000 6 with tReady := some 1 }.accepts 1 := ⟨rfl, rfl, Nat.le_refl 1⟩
/-- A unit at the first delay of `SETFREQ 50`: its four events of the sleep write are done (R76). -/
def atDelay : State :=
  { running with busy := true, cmdQ := 0x0300320000, seqStep := 4, entryStage := .running, stage := .sleeping }
theorem witness_DelaysAreNotHandedOver : atDelay.resetIn = false ∧ atDelay.busy = true ∧
    (∃ rest, atDelay.remaining = plain (.wait 500) :: rest) ∧ atDelay.timer = none := ⟨rfl, rfl, ⟨_, rfl⟩, rfl⟩
/-- The clause under the invariant: a unit that holds it and presents an event, outside the clearing words. -/
theorem witness_PresentedEventIsHandedOver_other : { stalledAt 0x0640030800 2 with tReady := some 1 }.presented = some (.write 0x00) ∧
    UnitInv { stalledAt 0x0640030800 2 with tReady := some 1 } ∧
    clearsChannels (decode 0x0640030800) = false := by
  refine ⟨rfl, (⟨2, by decide, rfl, rfl, by decide, rfl, rfl, ?_, rfl⟩ :
    ∃ k, BusyInv { stalledAt 0x0640030800 2 with tReady := some 1 } k), by decide⟩
  intro us h
  have h' : (none : Option Nat) = some us := h
  simp at h'
/-- The same in `CLEAR`, at the last event of channel 0: `step` 6 of a channel below 15. -/
theorem witness_PresentedEventIsHandedOver_clear : { stalledAt 0x0500000000 6 with tReady := some 1 }.seqStep = 6 ∧
    { stalledAt 0x0500000000 6 with tReady := some 1 }.chan = 0 ∧
    UnitInv { stalledAt 0x0500000000 6 with tReady := some 1 } ∧ clearsChannels (decode 0x0500000000) = true := by
  refine ⟨rfl, rfl, (⟨6, by decide, rfl, rfl, by decide, rfl, rfl, ?_, rfl⟩ :
    ∃ k, BusyInv { stalledAt 0x0500000000 6 with tReady := some 1 } k), by decide⟩
  intro us h
  have h' : (none : Option Nat) = some us := h
  simp at h'
set_option maxRecDepth 4000 in
/-- The last event of the last channel: `step` 6 of channel 15. -/
theorem witness_PresentedEventIsHandedOver_last : { stalledAt 0x0500000000 111 with tReady := some 1 }.seqStep = 6 ∧
    { stalledAt 0x0500000000 111 with tReady := some 1 }.chan = 15 ∧
    { stalledAt 0x0500000000 111 with tReady := some 1 }.presented = some .endTx := ⟨rfl, rfl, rfl⟩
theorem witness_BeginCompletes : (accepting 21).accepts 21 := Nat.le_refl 21
theorem witness_SetmodeWritesModeRegister : ((1 : Byte) = 1 ∨ (1 : Byte) = 2) ∧ ((2 : Byte) = 1 ∨ (2 : Byte) = 2) ∧
    (accepting 4).accepts 4 := ⟨.inl rfl, .inr rfl, Nat.le_refl 4⟩
theorem witness_InvalidSelectorFails : (0 : Byte) ≠ 1 ∧ (0 : Byte) ≠ 2 ∧ (3 : Byte) ≠ 1 ∧ (3 : Byte) ≠ 2 := by decide
theorem witness_InvalidSelectorFails_response : ∃ t, exec (.setmode 3 0xAA) running = .next t ∧
    t.responses = running.responses ++ [{ status := .fail, data := 0 }] := ⟨_, rfl, rfl⟩
theorem witness_SetfreqProgramsPrescale : (0 : Int) < 1 ∧ (accepting 12).accepts 12 := ⟨by decide, Nat.le_refl 12⟩
theorem witness_NonPositiveFrequencyBlanks : (0 : Int) ≤ 0 ∧ (-2147483648 : Int) ≤ 0 ∧ (accepting 112).accepts 112 :=
  ⟨by decide, by decide, Nat.le_refl 112⟩
theorem witness_BlankingClearsAllChannels : (0 : Int) ≤ 0 ∧ (accepting 112).accepts 112 := ⟨by decide, Nat.le_refl 112⟩
theorem witness_ClearWritesAllChannels : (accepting 112).accepts 112 := Nat.le_refl 112
theorem witness_EdgeCaseFields : fields 1 = (0, 1) ∧ fields 4094 = (0, 4094) := by decide
theorem witness_ResetBroadcasts : (accepting 4).accepts 4 := Nat.le_refl 4
theorem witness_AwriteWritesChannel : (accepting 7).accepts 7 := Nat.le_refl 7
theorem witness_ReadReturnsTheBusByte : { accepting 6 with answers := [0x7A] }.answers = 0x7A :: [] ∧
    { accepting 6 with answers := [0x7A] }.accepts 6 := ⟨rfl, Nat.le_refl 6⟩
theorem witness_ReadWithoutAnswerCompletes : (accepting 6).answers = [] ∧ (accepting 6).accepts 6 := ⟨rfl, Nat.le_refl 6⟩
theorem witness_ChannelSaturates : (15 : Int) < 16 ∧ (-1 : Int) < 0 ∧ (0 : Int) ≤ 15 ∧ (15 : Int) ≤ 15 := by decide
theorem witness_ValueSaturates : (4095 : Int) ≤ 4095 ∧ (0 : Int) ≤ 0 ∧ (0 : Int) ≤ 4095 := by decide
theorem witness_FrequencyClasses : freqClass 100007937 = .high ∧ freqClass 100007936 = .inRange ∧
    freqClass 1572864 = .inRange ∧ freqClass 1572863 = .low ∧ freqClass 1 = .low ∧ freqClass 0 = .blank := by decide
theorem witness_InvalidSelectorFails_next : { running with answers := [0x7A] }.acceptsAll ∧
    ∃ t, exec (.setmode 3 0xAA) { running with answers := [0x7A] } = .next t ∧
      { running with answers := [0x7A] }.nextAnswer = t.nextAnswer := ⟨rfl, _, rfl, rfl⟩
theorem witness_FieldPacking : (4096 : Nat) ≤ 4096 ∧ (0 : Nat) ≤ 4096 ∧ packFields 4096 0 = [0x00, 0x10, 0x00, 0x00] := by
  decide
theorem witness_PayloadShapes : (1 : Nat) ≤ 1 ∧ (1 : Nat) ≤ 4094 ∧ (1 : Nat) ≤ 4094 ∧ (4094 : Nat) ≤ 4094 := by decide
theorem witness_PrescaleRoundsExactQuotient : (0 : Int) < 1 ∧ (1 : Int) ≤ 2147483647 := by decide
theorem witness_PrescaleRange : (0 : Int) < 1 ∧ (1 : Int) ≤ 1 ∧ prescale (clampFreq 1) = 254 ∧
    prescale (clampFreq 2147483647) = 4 := by decide
theorem witness_EveryPrescaleReached : freqFits 1 = true ∧ prescale (clampFreq 1) = 254 ∧
    prescale (clampFreq 100007936) = 4 := by decide
theorem witness_PayloadInvariants : payload 4095 ≠ payload 0 ∧ payload 1 = [0x00, 0x00, 0x01, 0x00] ∧
    payload 4094 = [0x00, 0x00, 0xFE, 0x0F] := by decide
theorem witness_AwriteImage : (accepting 7).accepts 7 ∧ ∃ t, exec (.awrite 0x41 20 5000) (accepting 7) = .next t :=
  ⟨Nat.le_refl 7, _, rfl⟩
theorem witness_ModeWriteImage : (accepting 4).accepts 4 ∧ (∃ t, exec (.setmode 2 4) (accepting 4) = .next t) ∧
    ∃ t, exec .reset (accepting 4) = .next t := ⟨Nat.le_refl 4, ⟨_, rfl⟩, _, rfl⟩
theorem witness_FrequencyImage : (accepting 21).accepts 21 ∧ (∃ t, exec .begin (accepting 21) = .next t) ∧
    (accepting 12).accepts 12 ∧ ∃ t, exec (.setfreq 1) (accepting 12) = .next t :=
  ⟨Nat.le_refl 21, ⟨_, rfl⟩, Nat.le_refl 12, _, rfl⟩
theorem witness_ClearImage : (accepting 112).accepts 112 ∧ (∃ t, exec .clear (accepting 112) = .next t) ∧
    ∃ t, exec (.setfreq 0) (accepting 112) = .next t := ⟨Nat.le_refl 112, ⟨_, rfl⟩, _, rfl⟩
theorem witness_NoStoreImage : (accepting 6).accepts 6 ∧ (∃ t, exec (.read 0x40 0xFE) (accepting 6) = .next t) ∧
    ∃ t, exec (.setmode 0 0) (accepting 6) = .next t := ⟨Nat.le_refl 6, ⟨_, rfl⟩, _, rfl⟩
theorem witness_OnlyKnownRegistersWritten :
    { addr := 0x40, reg := 0x00, data := [0x30] } ∈ regWrites (eventsOf (planOf (.setmode 1 0x30) .running).ops 0) ∧
    { addr := 0x41, reg := 0x42, data := [0, 0x10, 0, 0] } ∈
      regWrites (eventsOf (planOf (.awrite 0x41 20 5000) .running).ops 0) := by decide
theorem witness_RestingStage : ∃ t, exec .begin State.reset = .next t ∧ t.busy = false := ⟨_, rfl, rfl⟩
theorem witness_OperandsDetermineEvents : State.reset.acceptsAll ∧ running.acceptsAll ∧
    State.reset.nextAnswer = running.nextAnswer ∧ (∃ t, exec .reset State.reset = .next t) ∧
    ∃ t, exec .reset running = .next t := ⟨rfl, rfl, rfl, ⟨_, rfl⟩, _, rfl⟩
theorem witness_AnswersReachOnlyReads : ∀ addr reg : Byte, Instr.clear ≠ .read addr reg := by simp
theorem witness_StalledTransportSticks : ((accepting 6).present 0x0641141388).ready ∧
    ((accepting 6).present 0x0641141388).host = [0x0641141388] ∧ decode 0x0641141388 = .instr (.awrite 0x41 20 5000) ∧
    ((accepting 6).present 0x0641141388).tReady = some 6 ∧
    6 < busCount (eventsOf (planOf (.awrite 0x41 20 5000) .running).ops 0) := by
  exact ⟨⟨rfl, rfl⟩, rfl, by decide, rfl, by decide⟩
theorem witness_StuckUnitDoesNotMove : (stalledAt 0x0640030800 2).resetIn = false ∧ (stalledAt 0x0640030800 2).stuck = true :=
  ⟨rfl, rfl⟩
theorem witness_SmallStepsMakeBigStep : (running.present 0x0500000000).ready ∧
    (running.present 0x0500000000).host = [0x0500000000] := ⟨⟨rfl, rfl⟩, rfl⟩
theorem witness_CommandListRunsToItsEnd : (running.present 0x0500000000).ready ∧ (running.present 0x0500000000).acceptsAll :=
  ⟨⟨rfl, rfl⟩, rfl⟩
/-- Two words, a `BEGIN` and an illegal opcode. -/
def twoWords : State := { State.reset with host := [0x0100000000, 0x0900000000] }
theorem witness_TraceIsConcatenation : twoWords.ready ∧ twoWords.acceptsAll ∧
    decode 0x0100000000 = .instr .begin ∧ decode 0x0900000000 = .illegal 0x09 := ⟨⟨rfl, rfl⟩, rfl, by decide⟩
theorem witness_StageAfterCommandList : twoWords.ready ∧ twoWords.acceptsAll ∧ twoWords.host.length = 2 ∧
    decode 0x0100000000 = .instr .begin := ⟨⟨rfl, rfl⟩, rfl, rfl, by decide⟩
/-- `SETFREQ 50` in Running after its event 3, and after its event 12 (V-STAGE): busy, in smallest steps. -/
theorem witness_StageInsideCommand : (running.present 0x0300320000).ready ∧
    (running.present 0x0300320000).host = [0x0300320000] ∧ (running.present 0x0300320000).acceptsAll ∧
    (∃ t, ticks 5 (running.present 0x0300320000) = .next t ∧ t.busy = true ∧ t.host = [] ∧ t.stage = .sleeping) ∧
    ∃ t, ticks 15 (running.present 0x0300320000) = .next t ∧ t.busy = true ∧ t.host = [] ∧ t.stage = .running :=
  ⟨⟨rfl, rfl⟩, rfl, rfl, ⟨_, rfl, rfl, rfl, rfl⟩, _, rfl, rfl, rfl, rfl⟩
/-- V-STAGE: the rows of the table, event index by event index. -/
theorem test_stageInside :
    stageInside (.instr .begin) 12 .uninitialized = .uninitialized ∧ stageInside (.instr .begin) 13 .uninitialized = .sleeping ∧
    stageInside (.instr .begin) 21 .running = .sleeping ∧ stageInside (.instr .begin) 22 .running = .running ∧
    stageInside (.instr (.setfreq 3276800)) 3 .running = .running ∧
    stageInside (.instr (.setfreq 3276800)) 4 .running = .sleeping ∧
    stageInside (.instr (.setfreq 3276800)) 12 .uninitialized = .sleeping ∧
    stageInside (.instr (.setfreq 3276800)) 13 .uninitialized = .uninitialized ∧
    stageInside (.instr (.setfreq 0)) 4 .running = .running ∧ stageInside (.instr .reset) 3 .running = .running ∧
    stageInside (.instr .reset) 4 .running = .uninitialized := by decide
/-- Both bounds of a signed operand, and one past each. -/
theorem witness_AssemblerKeepsOperands : assembleLine "AWRITE 128, 0".toList = .rejected ∧
    assembleLine "AWRITE -128, -32769".toList = .rejected ∧
    assembleLine "AWRITE 127, -32768, 255".toList = .instr (.awrite 0xFF 127 (-32768)) ∧
    assembleLine "SETMODE 256, 0".toList = .rejected ∧ assembleLine "SETFREQ 32768".toList = .rejected ∧
    assembleLine "SETFREQ -32768".toList = .instr (.setfreq (-2147483648)) := by decide
theorem witness_ChannelBaseTable : (15 : Nat) < 16 ∧ (0 : Int) ≤ 0 ∧ (clampChannel 127 = 15) ∧ chBase 15 = 0x42 := by decide
theorem witness_InvariantKept_idle : UnitInv running := by
  refine (⟨rfl, rfl, rfl, rfl, ?_, rfl⟩ : IdleInv running)
  decide
theorem witness_InvariantKept_busy : UnitInv (stalledAt 0x0640030800 2) := by
  refine (⟨2, by decide, rfl, rfl, by decide, rfl, rfl, ?_, rfl⟩ : ∃ k, BusyInv (stalledAt 0x0640030800 2) k)
  intro us h
  have h' : (none : Option Nat) = some us := h
  simp at h'
theorem witness_PrescaleWritesBracketed : (running.present 0x0300320000).ready ∧
    (running.present 0x0300320000).acceptsAll ∧ Bracketed (running.present 0x0300320000).trace := by
  refine ⟨⟨rfl, rfl⟩, rfl, ?_⟩
  intro pre post a d h
  have := congrArg List.length h
  simp [writeEvents, State.present, running, State.reset] at this

end Sys2Proof.Tests
end

/-! The scope family (00_scope.md): the invariant of the unit under every step (O55), the small steps against the big
step (O50), and the step of an idle unit (O10). Both O55 and O50 rest on `AtEvent`: the position of a busy unit says
which events of its command are still to come. -/

namespace Sys2Proof.Machine

/-! ### What one step and one smallest step do -/

theorem tick_of_busy {s : State} (hr : s.resetIn = false) (hb : s.busy = true) : tick s = .next (busyTick s) := by
  simp [tick, hr, hb]

/-- An idle unit takes the word the host presents, its command not yet begun (R13, R38). -/
theorem tick_of_ready {s : State} {w : Word} {rest : List Word} (h : s.ready) (hh : s.host = w :: rest) :
    tick s = .next (acceptWord w rest s).startCommand := by
  simp [tick, h.1, h.2, State.fetch, hh]

theorem tick_of_ready_nil {s : State} (h : s.ready) (hh : s.host = []) : tick s = .next (idleCycle s) := by
  simp [tick, h.1, h.2, State.fetch, hh]

theorem step_of_reset {s : State} (hr : s.resetIn = true) : step s = hardwareReset s := by simp [step, hr]

theorem tick_of_reset {s : State} (hr : s.resetIn = true) : tick s = hardwareReset s := by simp [tick, hr]

/-- Only an idle unit is reset (R93, R103). -/
theorem hardwareReset_eq_next {s t : State} (h : hardwareReset s = .next t) : s.busy = false ∧ s.resetUnit = t := by
  unfold hardwareReset at h
  split_ifs at h with hb
  cases h
  exact ⟨by simpa using hb, rfl⟩

/-- One small step of a busy unit with an event left: a `Wait` begins, or the transport stalls the unit, or the
event completes (R15, R76, R92). -/
theorem busyTick_cases {s : State} {m : MicroOp} {rest : List MicroOp} (h : s.remaining = m :: rest) :
    (∃ us, m.op = .wait us ∧ s.timer = none ∧ busyTick s = s.setTimer (some us)) ∨
    (s.stalledOn m = true ∧ busyTick s = s) ∨ (s.stalledOn m = false ∧ busyTick s = complete m s) := by
  cases hb : m.op.onBus with
  | true =>
    rw [busyTick_onBus h hb]
    cases hs : s.stalledOn m <;> simp
  | false =>
    obtain ⟨us, hw⟩ : ∃ us, m.op = .wait us := by
      cases hop : m.op with
      | wait us => exact ⟨us, rfl⟩
      | _ => rw [hop] at hb; cases hb
    cases ht : s.timer with
    | none => exact .inl ⟨us, hw, rfl, busyTick_wait h hw ht⟩
    | some n => exact .inr (.inr ⟨wait_not_stalledOn s hb, busyTick_waited h hw ht⟩)

/-! ### What one event does, field by field -/

@[simp] theorem setTimer_plan (s : State) (t : Option Nat) : (s.setTimer t).plan = s.plan := rfl

theorem complete_openTx (m : MicroOp) (s : State) : (complete m s).openTx = openAfter [m] s.openTx := by
  obtain ⟨op, st, nx⟩ := m
  cases op <;> rfl

theorem complete_timer (m : MicroOp) (s : State) :
    (complete m s).timer = if m.op.onBus then s.timer else none := by simp [complete_spec]

theorem complete_stage (m : MicroOp) (s : State) : (complete m s).stage = m.stageAfter.getD s.stage := by
  simp [complete_spec]

/-! ### The position counts the events -/

/-- How many events a position says have completed (R14; log 10). -/
def eventsDone (p : BitVec 6 × BitVec 4) : Nat := 7 * p.2.toNat + p.1.toNat

/-- Each event of the list, begun at `p`, moves the position by one. -/
def countsEvents (ops : List MicroOp) (p : BitVec 6 × BitVec 4) : Bool :=
  match ops with
  | [] => true
  | m :: rest =>
    decide (eventsDone (positionFrom [m] p) = eventsDone p + 1) && countsEvents rest (positionFrom [m] p)

theorem eventsDone_positionFrom_take {ops : List MicroOp} {p : BitVec 6 × BitVec 4} {k : Nat}
    (h : countsEvents ops p = true) (hk : k ≤ ops.length) :
    eventsDone (positionFrom (ops.take k) p) = eventsDone p + k := by
  induction ops generalizing p k with
  | nil => rw [Nat.le_zero.mp hk]; rfl
  | cons m rest ih =>
    cases k with
    | zero => rfl
    | succ k =>
      simp only [countsEvents, Bool.and_eq_true, decide_eq_true_eq] at h
      obtain ⟨hm, hrest⟩ := h
      have := ih hrest (Nat.le_of_succ_le_succ hk)
      rw [hm] at this
      calc eventsDone (positionFrom ((m :: rest).take (k + 1)) p)
          = eventsDone p + 1 + k := this
        _ = eventsDone p + (k + 1) := by omega

/-! ### The grammar of transactions -/

theorem phaseFrom_append (p : Option BusPhase) (xs ys : List Event) :
    phaseFrom p (xs ++ ys) = phaseFrom (phaseFrom p xs) ys := by
  induction xs generalizing p with
  | nil => rfl
  | cons e xs ih => exact ih _

theorem busPhase_snoc (tr : List Event) (e : Event) :
    busPhase (tr ++ [e]) = (busPhase tr).bind (fun q => q.next e) := phaseFrom_append _ tr [e]

theorem phaseFrom_none (tr : List Event) : phaseFrom none tr = none := by
  induction tr with
  | nil => rfl
  | cons e tr ih => exact ih

/-- The first part of a trace that keeps to the grammar keeps to it (R8). -/
theorem busPhase_ne_none_of_append {xs ys : List Event} (h : busPhase (xs ++ ys) ≠ none) : busPhase xs ≠ none := by
  intro hx
  exact h ((phaseFrom_append _ xs ys).trans ((congrArg (phaseFrom · ys) hx).trans (phaseFrom_none ys)))

/-- The grammar does not see the byte read. -/
theorem next_event (q : BusPhase) (op : BusOp) (b c : Byte) : q.next (op.event b) = q.next (op.event c) := by
  cases op with
  | read => cases q <;> rfl
  | _ => rfl

/-- The transaction held open agrees with the grammar after one more event, if it did before (R8). -/
theorem openAfter_isSome_of_next {p q : BusPhase} {m : MicroOp} {b : Byte} {cur : Option Byte}
    (hn : p.next (m.op.event b) = some q) (hc : cur.isSome = decide (p ≠ .closed)) :
    (openAfter [m] cur).isSome = decide (q ≠ .closed) := by
  obtain ⟨op, st, nx⟩ := m
  cases op with
  | beginTx a => cases p <;> cases hn; rfl
  | endTx => cases p <;> cases hn <;> rfl
  | _ => cases p <;> cases hn <;> exact hc

/-! ### What every plan keeps -/

/-- An event list the sequencer can run from a resting unit: its events move the position one by one (R14), they
are whole transactions (R8), and after them the unit does not rest in `Sleeping` (R69). -/
structure PlanInv (p : Plan) (entry : Stage) : Prop where
  counts : countsEvents p.ops (0, 0) = true
  grammar : busPhase (eventsOf p.ops 0) = some .closed
  resting : entry ≠ .sleeping → stageAfterOps p.ops entry ≠ .sleeping

theorem clearPlan_inv (entry : Stage) : PlanInv clearPlan entry := ⟨rfl, rfl, id⟩

theorem errorPlan_inv (st : Status) (entry : Stage) : PlanInv (errorPlan st) entry := ⟨rfl, rfl, id⟩

/-- The event list of a command is fixed but for the bytes it carries, and neither the position nor the phase looks at
a byte: along each list both compute. -/
theorem planOf_inv (i : Instr) (entry : Stage) : PlanInv (planOf i entry) entry := by
  cases i with
  | begin => exact ⟨rfl, rfl, fun _ => nofun⟩
  | setmode sel val =>
    simp only [planOf, setmodePlan]
    split_ifs
    · exact ⟨rfl, rfl, id⟩
    · exact ⟨rfl, rfl, id⟩
    · exact errorPlan_inv .fail entry
  | setfreq freq =>
    rcases lt_or_ge 0 freq with h | h
    · rw [planOf, setfreqPlan_of_pos h]; exact ⟨rfl, rfl, id⟩
    · rw [planOf, setfreqPlan_of_nonpos h]; exact clearPlan_inv entry
  | reset => exact ⟨rfl, rfl, fun _ => nofun⟩
  | clear => exact clearPlan_inv entry
  | awrite addr chan value => exact ⟨rfl, rfl, id⟩
  | read addr reg => exact ⟨rfl, rfl, id⟩

theorem planOfWord_inv (w : Word) (entry : Stage) : PlanInv (planOfWord w entry) entry := by
  unfold planOfWord
  cases decode w with
  | instr i => exact planOf_inv i entry
  | illegal op => exact errorPlan_inv .illegal entry

theorem plan_inv (s : State) : PlanInv s.plan s.entryStage := planOfWord_inv s.cmdQ s.entryStage

/-! ### Where a busy unit stands -/

/-- The position of a busy unit says that the first `k` events of its command have completed (R14; log 10). -/
structure AtEvent (s : State) (k : Nat) : Prop where
  inside : k ≤ s.plan.ops.length
  position : (s.seqStep, s.chan) = positionAfter (s.plan.ops.take k)

theorem AtEvent.remaining {s : State} {k : Nat} (h : AtEvent s k) : s.remaining = s.plan.ops.drop k := by
  have hpos : s.position = k := by
    calc s.position = eventsDone (s.seqStep, s.chan) := rfl
      _ = eventsDone (positionFrom (s.plan.ops.take k) (0, 0)) := by rw [h.position]; rfl
      _ = 0 + k := eventsDone_positionFrom_take (plan_inv s).counts h.inside
      _ = k := Nat.zero_add k
  rw [State.remaining, hpos]

theorem getElem?_of_drop_eq_cons {ops rest : List MicroOp} {m : MicroOp} {k : Nat} (h : ops.drop k = m :: rest) :
    ops[k]? = some m := by
  rw [← List.head?_drop, h]; rfl

theorem take_succ_of_drop_eq_cons {ops rest : List MicroOp} {m : MicroOp} {k : Nat} (h : ops.drop k = m :: rest) :
    ops.take (k + 1) = ops.take k ++ [m] := by
  rw [List.take_add_one, getElem?_of_drop_eq_cons h]; rfl

theorem drop_succ_of_drop_eq_cons {ops rest : List MicroOp} {m : MicroOp} {k : Nat} (h : ops.drop k = m :: rest) :
    ops.drop (k + 1) = rest := by
  rw [← List.tail_drop, h]; rfl

theorem atEvent_complete {s : State} {k : Nat} {m : MicroOp} {rest : List MicroOp} (h : AtEvent s k)
    (hd : s.plan.ops.drop k = m :: rest) : AtEvent (complete m s) (k + 1) := by
  have hlen : k < s.plan.ops.length := (List.getElem?_eq_some_iff.mp (getElem?_of_drop_eq_cons hd)).1
  refine ⟨by rwa [complete_plan], ?_⟩
  rw [complete_plan, take_succ_of_drop_eq_cons hd]
  exact complete_position h.position

theorem startCommand_atEvent (s : State) : AtEvent s.startCommand 0 := ⟨Nat.zero_le _, rfl⟩

/-- The big step of an accepted word is its whole command, resumed from before its first event (R9). -/
theorem step_eq_resume_of_ready {s : State} {w : Word} {rest : List Word} (h : s.ready) (hh : s.host = w :: rest) :
    step s = .next (resume (acceptWord w rest s).startCommand) := by
  rw [step_of_ready h hh, resume, (startCommand_atEvent _).remaining]; rfl

/-! ### The invariant under one event -/

theorem BusyInv.atEvent {s : State} {k : Nat} (h : BusyInv s k) : AtEvent s k := ⟨h.inside, h.position⟩

theorem unitInv_of_busy {s : State} {k : Nat} (hb : s.busy = true) (h : BusyInv s k) : UnitInv s := by
  rw [UnitInv, if_pos hb]; exact ⟨k, h⟩

theorem unitInv_of_idle {s : State} (hb : s.busy = false) (h : IdleInv s) : UnitInv s := by
  rw [UnitInv, if_neg (by simp [hb])]; exact h

/-- The timer of a unit at a bus event is idle. -/
theorem BusyInv.timer_onBus {s : State} {k : Nat} {m : MicroOp} (h : BusyInv s k) (hm : s.plan.ops[k]? = some m)
    (hb : m.op.onBus = true) : s.timer = none := by
  cases ht : s.timer with
  | none => rfl
  | some us =>
    have hw := h.timer us ht
    rw [hm, Option.map_some, Option.some_inj] at hw
    rw [hw] at hb; cases hb

theorem eventsOf_append (xs ys : List MicroOp) (b : Byte) : eventsOf (xs ++ ys) b = eventsOf xs b ++ eventsOf ys b :=
  List.map_append

/-- The trace keeps standing where the command's events leave it (R8). -/
theorem phase_complete {s : State} {done : List MicroOp} {m : MicroOp}
    (h : busPhase s.trace = busPhase (eventsOf done 0)) :
    busPhase (complete m s).trace = busPhase (eventsOf (done ++ [m]) 0) := by
  calc busPhase (complete m s).trace
      = (busPhase s.trace).bind (fun q => q.next (m.op.event s.nextAnswer)) := by rw [complete_trace, busPhase_snoc]
    _ = (busPhase (eventsOf done 0)).bind (fun q => q.next (m.op.event 0)) := by
        simp only [h, next_event _ m.op s.nextAnswer 0]
    _ = busPhase (eventsOf (done ++ [m]) 0) := by rw [eventsOf_append]; exact (busPhase_snoc _ _).symm

/-- A transaction is open after an event exactly when the grammar says so (R8). -/
theorem openTx_complete {s : State} {m : MicroOp}
    (h : s.openTx.isSome = decide (busPhase s.trace ≠ some .closed)) (hgood : busPhase (complete m s).trace ≠ none) :
    (complete m s).openTx.isSome = decide (busPhase (complete m s).trace ≠ some .closed) := by
  obtain ⟨q, hq⟩ := Option.ne_none_iff_exists'.mp hgood
  have hnext := hq
  rw [complete_trace, busPhase_snoc] at hnext
  obtain ⟨p, hp, hpq⟩ := Option.bind_eq_some_iff.mp hnext
  rw [complete_openTx, hq]
  simpa using openAfter_isSome_of_next hpq (by simpa [hp] using h)

/-- The events of a command keep to the grammar at every point (R8). -/
theorem plan_phase_ne_none (s : State) (k : Nat) : busPhase (eventsOf (s.plan.ops.take k) 0) ≠ none := by
  apply busPhase_ne_none_of_append (ys := eventsOf (s.plan.ops.drop k) 0)
  rw [← eventsOf_append, List.take_append_drop, (plan_inv s).grammar]
  nofun

/-- An event that completes keeps the invariant of a busy unit, one event further on (R76). -/
theorem busyInv_complete {s : State} {k : Nat} {m : MicroOp} {rest : List MicroOp} (h : BusyInv s k)
    (hd : s.plan.ops.drop k = m :: rest) : BusyInv (complete m s) (k + 1) := by
  have htake := take_succ_of_drop_eq_cons hd
  obtain ⟨hinside, hposition⟩ := atEvent_complete h.atEvent hd
  have hphase : busPhase (complete m s).trace = busPhase (eventsOf (s.plan.ops.take (k + 1)) 0) :=
    htake ▸ phase_complete h.phase
  have htimer : (complete m s).timer = none := by
    rw [complete_timer]
    split_ifs with hb
    · exact h.timer_onBus (getElem?_of_drop_eq_cons hd) hb
    · rfl
  exact {
    inside := hinside
    position := hposition
    stage := by rw [complete_plan, complete_entryStage, htake, stageAfterOps_snoc, complete_stage, h.stage]
    entryResting := by rw [complete_entryStage]; exact h.entryResting
    phase := by rw [complete_plan]; exact hphase
    openTx := openTx_complete h.openTx (hphase ▸ plan_phase_ne_none s (k + 1))
    timer := by rw [htimer]; nofun
    noResponse := by rw [complete_rspValid]; exact h.noResponse }

/-- A unit that has completed every event of its command rests, after its response, in the invariant of an idle
unit (R69, R78). -/
theorem idleInv_respond {s : State} {k : Nat} (h : BusyInv s k) (hd : s.plan.ops.drop k = []) :
    IdleInv (respond s.plan s) := by
  have hall : s.plan.ops.take k = s.plan.ops := List.take_of_length_le (List.drop_eq_nil_iff.mp hd)
  have hclosed : busPhase s.trace = some .closed := by rw [h.phase, hall]; exact (plan_inv s).grammar
  refine ⟨rfl, rfl, rfl, ?_, ?_, hclosed⟩
  · have := h.openTx
    rw [hclosed] at this
    simpa using this
  · rw [respond_stage, h.stage, hall]
    exact (plan_inv s).resting h.entryResting

/-- The rest of a command, to its response or to where the transport stalls it, keeps the invariant (R9, R92). -/
theorem unitInv_perform {ops : List MicroOp} {s : State} {k : Nat} (h : BusyInv s k) (hb : s.busy = true)
    (hd : s.plan.ops.drop k = ops) : UnitInv (perform s.plan ops s) := by
  induction ops generalizing s k with
  | nil => rw [perform_nil]; exact unitInv_of_idle rfl (idleInv_respond h hd)
  | cons m rest ih =>
    cases hs : s.stalledOn m with
    | true => rw [perform_cons_stall hs]; exact unitInv_of_busy hb h
    | false =>
      rw [perform_cons_go hs, ← complete_plan m s]
      exact ih (busyInv_complete h hd) (by rwa [complete_busy])
        (by rw [complete_plan]; exact drop_succ_of_drop_eq_cons hd)

theorem unitInv_resume {s : State} {k : Nat} (h : BusyInv s k) (hb : s.busy = true) : UnitInv (resume s) := by
  rw [resume, h.atEvent.remaining]
  exact unitInv_perform h hb rfl

/-- A `Wait` that begins loads the timer and keeps the invariant (R15). -/
theorem busyInv_setTimer {s : State} {k : Nat} {m : MicroOp} {rest : List MicroOp} {us : Nat} (h : BusyInv s k)
    (hd : s.plan.ops.drop k = m :: rest) (hw : m.op = .wait us) : BusyInv (s.setTimer (some us)) k := by
  refine ⟨h.inside, h.position, h.stage, h.entryResting, h.phase, h.openTx, ?_, h.noResponse⟩
  rintro _ ⟨⟩
  rw [setTimer_plan, getElem?_of_drop_eq_cons hd, Option.map_some, hw]

theorem unitInv_busyTick {s : State} {k : Nat} (h : BusyInv s k) (hb : s.busy = true) : UnitInv (busyTick s) := by
  cases hd : s.plan.ops.drop k with
  | nil =>
    rw [busyTick_nil (h.atEvent.remaining.trans hd)]
    exact unitInv_of_idle rfl (idleInv_respond h hd)
  | cons m rest =>
    rcases busyTick_cases (h.atEvent.remaining.trans hd) with ⟨us, hw, -, ht⟩ | ⟨-, ht⟩ | ⟨-, ht⟩ <;> rw [ht]
    · exact unitInv_of_busy hb (busyInv_setTimer h hd hw)
    · exact unitInv_of_busy hb h
    · exact unitInv_of_busy (by rwa [complete_busy]) (busyInv_complete h hd)

/-! ### The invariant under what an idle unit does -/

theorem IdleInv.openTx_agrees {s : State} (h : IdleInv s) :
    s.openTx.isSome = decide (busPhase s.trace ≠ some .closed) := by
  rw [h.openTx, h.wholeTransactions]; rfl

/-- A unit that accepts a word begins its command with the invariant of a busy unit, before its first event (R13). -/
theorem busyInv_accept {s : State} (h : IdleInv s) (w : Word) (rest : List Word) :
    BusyInv (acceptWord w rest s).startCommand 0 where
  inside := Nat.zero_le _
  position := rfl
  stage := rfl
  entryResting := h.notSleeping
  phase := h.wholeTransactions
  openTx := h.openTx_agrees
  timer := nofun
  noResponse := rfl

theorem idleInv_idleCycle {s : State} (h : IdleInv s) : IdleInv (idleCycle s) :=
  ⟨h.seqStep, h.chan, h.timer, h.openTx, h.notSleeping, h.wholeTransactions⟩

theorem idleInv_resetUnit {s : State} (h : IdleInv s) : IdleInv s.resetUnit :=
  ⟨rfl, rfl, rfl, rfl, nofun, h.wholeTransactions⟩

/-! ### The invariant under every step -/

theorem UnitInv.idle {s : State} (h : UnitInv s) (hb : s.busy = false) : IdleInv s := by
  rwa [UnitInv, if_neg (by simp [hb])] at h

theorem UnitInv.busy {s : State} (h : UnitInv s) (hb : s.busy = true) : ∃ k, BusyInv s k := by
  rwa [UnitInv, if_pos hb] at h

theorem unitInv_hardwareReset {s t : State} (h : UnitInv s) (ht : hardwareReset s = .next t) : UnitInv t := by
  obtain ⟨hb, rfl⟩ := hardwareReset_eq_next ht
  exact unitInv_of_idle rfl (idleInv_resetUnit (h.idle hb))

/-- Settles O55: by cases on what the step is (reset, the command in progress, an idle cycle, acceptance); the events
of a command are handled one at a time by `busyInv_complete`. -/
theorem invariantKept : Obligations.InvariantKept := by
  intro s t h
  cases hr : s.resetIn with
  | true =>
    rw [step_of_reset hr, tick_of_reset hr]
    exact ⟨unitInv_hardwareReset h, unitInv_hardwareReset h⟩
  | false =>
    cases hb : s.busy with
    | true =>
      obtain ⟨k, hk⟩ := h.busy hb
      rw [step_of_busy hr hb, tick_of_busy hr hb]
      constructor <;> rintro ⟨⟩
      · exact unitInv_resume hk hb
      · exact unitInv_busyTick hk hb
    | false =>
      have hi := h.idle hb
      cases hh : s.host with
      | nil =>
        rw [step_of_ready_nil ⟨hr, hb⟩ hh, tick_of_ready_nil ⟨hr, hb⟩ hh]
        constructor <;> rintro ⟨⟩ <;> exact unitInv_of_idle hb (idleInv_idleCycle hi)
      | cons w rest =>
        rw [step_eq_resume_of_ready ⟨hr, hb⟩ hh, tick_of_ready ⟨hr, hb⟩ hh]
        constructor <;> rintro ⟨⟩
        · exact unitInv_resume (busyInv_accept hi w rest) rfl
        · exact unitInv_of_busy rfl (busyInv_accept hi w rest)

/-! ### The small steps of a command -/

theorem ticks_succ {s q : State} (h : tick s = .next q) (n : Nat) : ticks (n + 1) s = ticks n q := by
  simp [ticks, h]

/-- At most `b` smallest steps lead from `s` to `t`, and there the command has ended or the transport stalls it. -/
def StopsWithin (b : Nat) (s t : State) : Prop :=
  ∃ n ≤ b, ticks n s = .next t ∧ (t.busy = false ∨ tick t = .next t)

theorem StopsWithin.here {t : State} (b : Nat) (h : t.busy = false ∨ tick t = .next t) : StopsWithin b t t :=
  ⟨0, Nat.zero_le b, rfl, h⟩

theorem StopsWithin.mono {b c : Nat} {s t : State} (h : StopsWithin b s t) (hc : b ≤ c) : StopsWithin c s t := by
  obtain ⟨n, hn, hrest⟩ := h
  exact ⟨n, hn.trans hc, hrest⟩

theorem StopsWithin.tick {b : Nat} {s q t : State} (hq : tick s = .next q) (h : StopsWithin b q t) :
    StopsWithin (b + 1) s t := by
  obtain ⟨n, hn, hticks, hstop⟩ := h
  exact ⟨n + 1, Nat.succ_le_succ hn, (ticks_succ hq n).trans hticks, hstop⟩

/-- An event that the transport does not stall completes in one smallest step, or in two where it is a `Wait` whose
timer is still to be loaded (R15, R76; log 12). -/
theorem stopsWithin_of_complete {b : Nat} {s t : State} {m : MicroOp} {rest : List MicroOp}
    (hr : s.resetIn = false) (hb : s.busy = true) (hrem : s.remaining = m :: rest) (hs : s.stalledOn m = false)
    (h : StopsWithin b (complete m s) t) : StopsWithin (b + 2) s t := by
  rcases busyTick_cases hrem with ⟨us, hw, -, ht⟩ | ⟨hs', -⟩ | ⟨-, ht⟩
  · have hrem' : (s.setTimer (some us)).remaining = m :: rest := hrem
    have hsecond : tick (s.setTimer (some us)) = .next (complete m s) := by
      rw [tick_of_busy (s := s.setTimer (some us)) hr hb, busyTick_waited hrem' hw rfl,
        complete_setTimer s _ (by rw [hw]; rfl)]
    exact .tick (ht ▸ tick_of_busy hr hb) (.tick hsecond h)
  · rw [hs] at hs'; cases hs'
  · exact .tick (ht ▸ tick_of_busy hr hb) (h.mono (Nat.le_succ b))

/-- The smallest steps of a command from one of its events on lead where the big step leads (R9, R76). -/
theorem stopsWithin_perform {ops : List MicroOp} {s : State} {k : Nat} (h : AtEvent s k) (hr : s.resetIn = false)
    (hb : s.busy = true) (hd : s.plan.ops.drop k = ops) :
    StopsWithin (1 + 2 * ops.length) s (perform s.plan ops s) := by
  have hrem := h.remaining.trans hd
  induction ops generalizing s k with
  | nil =>
    have htick := tick_of_busy hr hb
    rw [busyTick_nil hrem] at htick
    rw [perform_nil]
    exact .tick htick (.here 0 (.inl rfl))
  | cons m rest ih =>
    cases hs : s.stalledOn m with
    | true =>
      rw [perform_cons_stall hs]
      refine .here _ (.inr ?_)
      rw [tick_of_busy hr hb, busyTick_onBus hrem ((stalledOn_iff s m).mp hs).1, if_pos hs]
    | false =>
      have hnext := atEvent_complete h hd
      have hdrop : (complete m s).plan.ops.drop (k + 1) = rest := by
        rw [complete_plan]; exact drop_succ_of_drop_eq_cons hd
      rw [perform_cons_go hs, ← complete_plan m s]
      exact stopsWithin_of_complete hr hb hrem hs
        (ih hnext (by rwa [complete_resetIn]) (by rwa [complete_busy]) hdrop (hnext.remaining.trans hdrop))

/-- Settles O50, by induction on the events still to come: one smallest step accepts the word, and `stopsWithin_perform` counts those of its events and its
response. -/
theorem smallStepsMakeBigStep : Obligations.SmallStepsMakeBigStep := by
  intro s w rest h hh
  have hstep := step_eq_resume_of_ready h hh
  have hat := startCommand_atEvent (acceptWord w rest s)
  rw [resume, hat.remaining, List.drop_zero] at hstep
  obtain ⟨n, hn, hticks, hstop⟩ :=
    StopsWithin.tick (tick_of_ready h hh) (stopsWithin_perform hat h.1 rfl List.drop_zero)
  have hbound : n ≤ 1 + 2 * (planOfWord w s.stage).ops.length + 1 := hn
  exact ⟨n, _, hstep, hticks, by omega, hstop⟩

/-- Settles O10: the state is `acceptWord`'s, whose fields the laws of `State` give. -/
theorem stepRunsDecodedCommand : Obligations.StepRunsDecodedCommand := by
  intro s w rest i h hh hd
  have hstep : step s = exec i (acceptWord w rest s) := by
    rw [step_of_ready h hh, exec_eq_runPlan, planOfWord, hd]; rfl
  exact ⟨acceptWord w rest s, hstep, rfl, rfl, rfl, rfl, h.2, rfl, rfl, rfl, rfl, rfl, rfl, h.1, rfl, rfl, rfl, rfl⟩

end Sys2Proof.Machine

/-! The state family (10_state.md): what reset leaves (O8, O54), one smallest step of a busy unit (O13, O14, O15), the
resting stage and the events of whole commands (O45, O46, O53), the stage inside a command (O57), and the image after
the channels are cleared (O41). O14, O15 and O57 rest on `PlanMarks`: what the events of a command are marked with. -/

namespace Sys2Proof.Machine

/-! ### What reset leaves -/

/-- Settles O8: `State.reset` writes out each value, and an idle unit presents nothing. -/
theorem resetLeavesUnitIdle : Obligations.ResetLeavesUnitIdle :=
  ⟨rfl, rfl, rfl, rfl, rfl, rfl, rfl, rfl, rfl, rfl, rfl⟩

/-- Settles O54: the unit is idle after reset, in `Uninitialized` and with an empty trace. -/
theorem invariantAtReset : Obligations.InvariantAtReset :=
  unitInv_of_idle rfl ⟨rfl, rfl, rfl, rfl, nofun, rfl⟩

/-! ### The marks of an event: its stage write and its end of a channel -/

/-- Only an `End` writes a stage or ends a channel. -/
def MicroOp.marksOnlyEnd (m : MicroOp) : Bool :=
  decide (m.op = .endTx) || (m.stageAfter.isNone && !m.nextChannel)

/-- The marks on the event list of a command (R14, R76): the stage writes are those of the rules' table, event index
by event index; only an `End` is marked; and only a word that clears all channels moves `chan`. -/
structure PlanMarks (d : Decoded) (p : Plan) (entry : Stage) : Prop where
  stageWrites : p.ops.map MicroOp.stageAfter = (List.range p.ops.length).map (fun k => stageWriteAfter d k entry)
  onlyEnd : p.ops.all MicroOp.marksOnlyEnd = true
  channels : clearsChannels d = false → p.ops.all (fun m => !m.nextChannel) = true

theorem errorPlan_marks (d : Decoded) (st : Status) (entry : Stage) : PlanMarks d (errorPlan st) entry :=
  ⟨rfl, rfl, fun _ => rfl⟩

theorem clearPlan_marks {d : Decoded} {entry : Stage} (hc : clearsChannels d = true)
    (hs : ∀ k, stageWriteAfter d k entry = none) : PlanMarks d clearPlan entry where
  stageWrites := by simp only [hs]; rfl
  onlyEnd := rfl
  channels := fun h => by rw [hc] at h; cases h

theorem planOf_marks (i : Instr) (entry : Stage) : PlanMarks (.instr i) (planOf i entry) entry := by
  cases i with
  | begin => exact ⟨rfl, rfl, fun _ => rfl⟩
  | setmode sel val =>
    simp only [planOf, setmodePlan]
    split_ifs
    · exact ⟨rfl, rfl, fun _ => rfl⟩
    · exact ⟨rfl, rfl, fun _ => rfl⟩
    · exact errorPlan_marks _ .fail entry
  | setfreq freq =>
    rcases lt_or_ge 0 freq with h | h
    · have hwrite (k : Nat) : stageWriteAfter (.instr (.setfreq freq)) k entry =
          if k = 3 then some .sleeping else if k = 12 then some entry else none := if_neg (not_le.mpr h)
      rw [planOf, setfreqPlan_of_pos h]
      exact ⟨by simp only [hwrite]; rfl, rfl, fun _ => rfl⟩
    · rw [planOf, setfreqPlan_of_nonpos h]
      exact clearPlan_marks (decide_eq_true h) (fun _ => if_pos h)
  | reset => exact ⟨rfl, rfl, fun _ => rfl⟩
  | clear => exact clearPlan_marks rfl (fun _ => rfl)
  | awrite addr chan value => exact ⟨rfl, rfl, fun _ => rfl⟩
  | read addr reg => exact ⟨rfl, rfl, fun _ => rfl⟩

theorem planOfWord_marks (w : Word) (entry : Stage) : PlanMarks (decode w) (planOfWord w entry) entry := by
  unfold planOfWord
  cases decode w with
  | instr i => exact planOf_marks i entry
  | illegal op => exact errorPlan_marks _ .illegal entry

/-- The stage write on event `k` is the one the rules' table gives the index (R76). -/
theorem PlanMarks.stageAfter_eq {d : Decoded} {p : Plan} {entry : Stage} (h : PlanMarks d p entry) {k : Nat}
    {m : MicroOp} (hm : p.ops[k]? = some m) : m.stageAfter = stageWriteAfter d k entry := by
  have hk : k < p.ops.length := (List.getElem?_eq_some_iff.mp hm).1
  have := congrArg (·[k]?) h.stageWrites
  simpa only [List.getElem?_map, hm, List.getElem?_range hk, Option.map_some, Option.some_inj] using this

/-- An event that is no `End` writes no stage and ends no channel. -/
theorem PlanMarks.unmarked {d : Decoded} {p : Plan} {entry : Stage} (h : PlanMarks d p entry) {m : MicroOp}
    (hm : m ∈ p.ops) (hop : m.op ≠ .endTx) : m.stageAfter = none ∧ m.nextChannel = false := by
  have := List.all_eq_true.mp h.onlyEnd m hm
  simpa [MicroOp.marksOnlyEnd, hop] using this

theorem PlanMarks.not_nextChannel {d : Decoded} {p : Plan} {entry : Stage} (h : PlanMarks d p entry) {m : MicroOp}
    (hm : m ∈ p.ops) (hc : clearsChannels d = false) : m.nextChannel = false := by
  simpa using List.all_eq_true.mp (h.channels hc) m hm

/-- Only an `End` of a word that clears all channels ends a channel (R14). -/
theorem PlanMarks.end_of_nextChannel {d : Decoded} {p : Plan} {entry : Stage} (h : PlanMarks d p entry) {m : MicroOp}
    (hm : m ∈ p.ops) (hn : m.nextChannel = true) : clearsChannels d = true ∧ m.op = .endTx := by
  constructor
  · by_contra hc
    simp [h.not_nextChannel hm (by simpa using hc)] at hn
  · by_contra hop
    simp [(h.unmarked hm hop).2] at hn

theorem plan_marks (s : State) : PlanMarks (decode s.cmdQ) s.plan s.entryStage := planOfWord_marks s.cmdQ s.entryStage

/-! ### A busy unit in one smallest step -/

theorem mem_plan_of_remaining {s : State} {m : MicroOp} {rest : List MicroOp} (h : s.remaining = m :: rest) :
    m ∈ s.plan.ops :=
  List.mem_of_mem_drop (h ▸ List.mem_cons_self : m ∈ s.remaining)

/-- What a busy unit's smallest step can be: the response, a `Wait` that begins, a stall, or an event that completes
(R15, R76, R78, R92). -/
theorem tick_of_busy_cases {s t : State} (hb : s.busy = true) (ht : tick s = .next t) :
    t = respond s.plan s ∨ (∃ us, t = s.setTimer (some us)) ∨ t = s ∨ ∃ m, t = complete m s := by
  cases hr : s.resetIn with
  | true =>
    rw [tick_of_reset hr] at ht
    have := (hardwareReset_eq_next ht).1
    rw [hb] at this; cases this
  | false =>
    rw [tick_of_busy hr hb] at ht
    cases ht
    cases hrem : s.remaining with
    | nil => exact .inl (busyTick_nil hrem)
    | cons m rest =>
      rcases busyTick_cases hrem with ⟨us, -, -, h⟩ | ⟨-, h⟩ | ⟨-, h⟩
      · exact .inr (.inl ⟨us, h⟩)
      · exact .inr (.inr (.inl h))
      · exact .inr (.inr (.inr ⟨m, h⟩))

/-- Settles O13, by the four things a smallest step of a busy unit can be. -/
theorem busyUnitHoldsItsCommand : Obligations.BusyUnitHoldsItsCommand := by
  intro s t hb ht
  have hready : s.cmdReady = false := by rw [State.cmdReady, hb]; rfl
  refine ⟨hready, ?_⟩
  rcases tick_of_busy_cases hb ht with rfl | ⟨us, rfl⟩ | rfl | ⟨m, rfl⟩
  · exact ⟨rfl, nofun, .inl rfl⟩
  · exact ⟨rfl, fun _ => ⟨rfl, rfl⟩, .inl rfl⟩
  · exact ⟨rfl, fun _ => ⟨rfl, rfl⟩, .inl rfl⟩
  · exact ⟨complete_host m s, fun _ => ⟨complete_cmdQ m s, complete_entryStage m s⟩, .inr ⟨_, complete_trace m s⟩⟩

/-- A `Wait` takes two smallest steps: the timer is loaded, and the event completes (R15; log 12). -/
theorem tick_wait {s : State} {m : MicroOp} {rest : List MicroOp} {us : Nat} (hr : s.resetIn = false)
    (hb : s.busy = true) (hrem : s.remaining = m :: rest) (hw : m.op = .wait us) (ht : s.timer = none) :
    tick s = .next (s.setTimer (some us)) ∧ tick (s.setTimer (some us)) = .next (complete m s) := by
  have hrem' : (s.setTimer (some us)).remaining = m :: rest := hrem
  constructor
  · rw [tick_of_busy hr hb, busyTick_wait hrem hw ht]
  · rw [tick_of_busy (s := s.setTimer (some us)) hr hb, busyTick_waited hrem' hw rfl,
      complete_setTimer s _ (by rw [hw]; rfl)]

/-- A unit presents the bus event it stands at, and nothing else (R38). -/
theorem presented_eq_some_iff {s : State} {op : BusOp} :
    s.presented = some op ↔
      s.busy = true ∧ op.onBus = true ∧ ∃ m rest, s.remaining = m :: rest ∧ m.op = op := by
  unfold State.presented
  cases s.busy with
  | false => simp
  | true =>
    cases s.remaining with
    | nil => simp
    | cons m rest =>
      simp only [if_true, Option.ite_none_right_eq_some, Option.some_inj, true_and]
      constructor
      · rintro ⟨hb, rfl⟩
        exact ⟨hb, m, rest, rfl, rfl⟩
      · rintro ⟨hb, _, _, ⟨⟩, rfl⟩
        exact ⟨hb, rfl⟩

theorem tValid_of_wait {s : State} {m : MicroOp} {rest : List MicroOp} {us : Nat} (hrem : s.remaining = m :: rest)
    (hw : m.op = .wait us) : s.tValid = false := by
  rw [State.tValid, Option.isSome_eq_false_iff, Option.isNone_iff_eq_none, Option.eq_none_iff_forall_not_mem]
  intro op hop
  obtain ⟨-, hbus, _, _, hrem', rfl⟩ := presented_eq_some_iff.mp hop
  rw [hrem] at hrem'
  cases hrem'
  rw [hw] at hbus; cases hbus

/-- Settles O15: `tick_wait` gives both smallest steps, and a `Wait` carries no mark. -/
theorem delaysAreNotHandedOver : Obligations.DelaysAreNotHandedOver := by
  intro s m rest us hr hb hrem hw ht
  obtain ⟨hload, hdone⟩ := tick_wait hr hb hrem hw ht
  obtain ⟨hstage, hnext⟩ := (plan_marks s).unmarked (mem_plan_of_remaining hrem) (by rw [hw]; nofun)
  have hq : (s.setTimer (some us)).remaining = m :: rest := hrem
  refine ⟨tValid_of_wait hrem hw, s.setTimer (some us), complete m s, hload, rfl, rfl, tValid_of_wait hq hw, hdone, ?_⟩
  simp [complete_spec, hw, hb, hstage, hnext, BusOp.onBus, BusOp.event]

/-! ### An event that is handed over -/

theorem tKind_isSome_of_onBus {op : BusOp} (h : op.onBus = true) : op.tKind.isSome = true := by
  cases op with
  | wait us => cases h
  | _ => rfl

/-- Along an event list begun at `p`, exactly the events at step 6 of a channel below 15 end their channel. -/
def endsChannelsAtSix (ops : List MicroOp) (p : BitVec 6 × BitVec 4) : Bool :=
  match ops with
  | [] => true
  | m :: rest =>
    decide (m.nextChannel = true ↔ p.1 = 6 ∧ p.2.toNat < 15) && endsChannelsAtSix rest (positionFrom [m] p)

theorem nextChannel_iff_of_endsChannelsAtSix {ops : List MicroOp} {p : BitVec 6 × BitVec 4} {k : Nat} {m : MicroOp}
    (h : endsChannelsAtSix ops p = true) (hm : ops[k]? = some m) :
    m.nextChannel = true ↔ (positionFrom (ops.take k) p).1 = 6 ∧ (positionFrom (ops.take k) p).2.toNat < 15 := by
  induction ops generalizing p k with
  | nil => cases hm
  | cons x rest ih =>
    simp only [endsChannelsAtSix, Bool.and_eq_true, decide_eq_true_eq] at h
    obtain ⟨hx, hrest⟩ := h
    cases k with
    | zero => cases hm; exact hx
    | succ k => exact ih hrest hm

theorem clearPlan_endsChannelsAtSix : endsChannelsAtSix clearPlan.ops (0, 0) = true := rfl

/-- Where no event ends a channel, `chan` does not move (R14). -/
theorem positionFrom_chan_of_unmarked {ops : List MicroOp} {p : BitVec 6 × BitVec 4}
    (h : ∀ m ∈ ops, m.nextChannel = false) : (positionFrom ops p).2 = p.2 := by
  induction ops generalizing p with
  | nil => rfl
  | cons m rest ih =>
    have hm : positionFrom (m :: rest) p = positionFrom rest (p.1 + 1, p.2) := by
      simp [positionFrom, h m List.mem_cons_self]
    rw [hm, ih fun x hx => h x (List.mem_cons_of_mem m hx)]

theorem complete_of_nextChannel {m : MicroOp} (s : State) (h : m.nextChannel = true) :
    (complete m s).seqStep = 0 ∧ (complete m s).chan = s.chan + 1 := by simp [complete_spec, h]

theorem complete_of_not_nextChannel {m : MicroOp} (s : State) (h : m.nextChannel = false) :
    (complete m s).seqStep = s.seqStep + 1 ∧ (complete m s).chan = s.chan := by simp [complete_spec, h]

/-- In a command that does not clear all channels `chan` is and stays 0 (R14). -/
theorem AtEvent.chan_eq_zero {s : State} {k : Nat} (h : AtEvent s k) (hc : clearsChannels (decode s.cmdQ) = false) :
    s.chan = 0 := by
  have hunmarked : ∀ m ∈ s.plan.ops.take k, m.nextChannel = false := fun m hm =>
    (plan_marks s).not_nextChannel (List.mem_of_mem_take hm) hc
  calc s.chan = (positionAfter (s.plan.ops.take k)).2 := congrArg Prod.snd h.position
    _ = 0 := positionFrom_chan_of_unmarked (p := (0, 0)) hunmarked

/-- In a command that clears all channels the event at step 6 of a channel below 15, and no other, ends its channel
(R14; log 10). -/
theorem AtEvent.nextChannel_iff {s : State} {k : Nat} {m : MicroOp} {rest : List MicroOp} (h : AtEvent s k)
    (hc : clearsChannels (decode s.cmdQ) = true) (hrem : s.remaining = m :: rest) :
    m.nextChannel = true ↔ s.seqStep = 6 ∧ s.chan.toNat < 15 := by
  have hplan : s.plan = clearPlan := planOfWord_of_clears hc s.entryStage
  have hm : clearPlan.ops[k]? = some m := hplan ▸ getElem?_of_drop_eq_cons (h.remaining ▸ hrem)
  have hpos : (s.seqStep, s.chan) = positionFrom (clearPlan.ops.take k) (0, 0) := hplan ▸ h.position
  rw [nextChannel_iff_of_endsChannelsAtSix clearPlan_endsChannelsAtSix hm, ← hpos]

/-- How an event that completes moves the position of a unit where the invariant holds (R14; log 10). -/
theorem complete_position_of_unitInv {s : State} {m : MicroOp} {rest : List MicroOp} (hinv : UnitInv s)
    (hb : s.busy = true) (hrem : s.remaining = m :: rest) :
    if clearsChannels (decode s.cmdQ) = true then
      if s.seqStep = 6 ∧ s.chan.toNat < 15 then
        (complete m s).seqStep = 0 ∧ (complete m s).chan = s.chan + 1 ∧ m.op = .endTx
      else (complete m s).seqStep = s.seqStep + 1 ∧ (complete m s).chan = s.chan
    else s.chan = 0 ∧ (complete m s).chan = 0 ∧ (complete m s).seqStep = s.seqStep + 1 := by
  obtain ⟨k, hk⟩ := hinv.busy hb
  have hmem := mem_plan_of_remaining hrem
  cases hc : clearsChannels (decode s.cmdQ) with
  | true =>
    have hiff := hk.atEvent.nextChannel_iff hc hrem
    rw [if_pos rfl]
    split_ifs with hsix
    · have hn := hiff.mpr hsix
      obtain ⟨hstep, hchan⟩ := complete_of_nextChannel s hn
      exact ⟨hstep, hchan, ((plan_marks s).end_of_nextChannel hmem hn).2⟩
    · exact complete_of_not_nextChannel s (by simpa using mt hiff.mp hsix)
  | false =>
    obtain ⟨hstep, hchan⟩ := complete_of_not_nextChannel s ((plan_marks s).not_nextChannel hmem hc)
    have hzero := hk.atEvent.chan_eq_zero hc
    rw [if_neg (by simp)]
    exact ⟨hzero, hchan.trans hzero, hstep⟩

/-- Settles O14: the unit presents the event it stands at, so the smallest step completes it; the marks of the event
say what it writes and how it moves the position. -/
theorem presentedEventIsHandedOver : Obligations.PresentedEventIsHandedOver := by
  intro s op hr hop hacc
  obtain ⟨hb, hbus, m, rest, hrem, rfl⟩ := presented_eq_some_iff.mp hop
  have hmem := mem_plan_of_remaining hrem
  have htick : tick s = .next (complete m s) := by
    rw [tick_of_busy hr hb, busyTick_onBus hrem hbus, if_neg (by simp [not_stalledOn m hacc])]
  have hstage : m.stageAfter = stageWriteAfter (decode s.cmdQ) s.position s.entryStage :=
    (plan_marks s).stageAfter_eq (getElem?_of_drop_eq_cons hrem)
  have hmoves : ((complete m s).seqStep = s.seqStep + 1 ∧ (complete m s).chan = s.chan) ∨
      (clearsChannels (decode s.cmdQ) = true ∧ m.op = .endTx ∧ (complete m s).seqStep = 0 ∧
        (complete m s).chan = s.chan + 1) := by
    cases hn : m.nextChannel with
    | false => exact .inl (complete_of_not_nextChannel s hn)
    | true =>
      obtain ⟨hc, hend⟩ := (plan_marks s).end_of_nextChannel hmem hn
      exact .inr ⟨hc, hend, complete_of_nextChannel s hn⟩
  refine ⟨complete m s, htick, complete_trace m s, tKind_isSome_of_onBus hbus, (complete_busy m s).trans hb,
    complete_cmdQ m s, complete_entryStage m s, ?_, ?_, ?_, hmoves,
    fun hinv => complete_position_of_unitInv hinv hb hrem⟩
  · rw [complete_timer, if_pos hbus]
  · simp [complete_spec, hbus]
  · rw [complete_stage, hstage]; rfl

/-! ### What a whole command leaves -/

/-- What no single event changes, no event list changes. -/
theorem completeAll_keeps {α : Type} (f : State → α) (h : ∀ m s, f (complete m s) = f s) (ops : List MicroOp)
    (s : State) : f (completeAll ops s) = f s := by
  induction ops generalizing s with
  | nil => rfl
  | cons m ops ih => rw [completeAll_cons, ih, h]

@[simp] theorem completeAll_busy (ops : List MicroOp) (s : State) : (completeAll ops s).busy = s.busy :=
  completeAll_keeps State.busy complete_busy ops s

@[simp] theorem completeAll_host (ops : List MicroOp) (s : State) : (completeAll ops s).host = s.host :=
  completeAll_keeps State.host complete_host ops s

@[simp] theorem completeAll_resetIn (ops : List MicroOp) (s : State) : (completeAll ops s).resetIn = s.resetIn :=
  completeAll_keeps State.resetIn complete_resetIn ops s

@[simp] theorem completeAll_responses (ops : List MicroOp) (s : State) :
    (completeAll ops s).responses = s.responses :=
  completeAll_keeps State.responses complete_responses ops s

/-- A transport that accepts every event goes on doing so. -/
theorem complete_acceptsAll (m : MicroOp) (s : State) : (complete m s).acceptsAll = s.acceptsAll := by
  simp only [State.acceptsAll, complete_spec]
  split_ifs <;> simp

@[simp] theorem completeAll_acceptsAll (ops : List MicroOp) (s : State) :
    (completeAll ops s).acceptsAll = s.acceptsAll :=
  completeAll_keeps State.acceptsAll complete_acceptsAll ops s

/-- The stage after an event list is what its events write (R76). -/
theorem completeAll_stage (ops : List MicroOp) (s : State) :
    (completeAll ops s).stage = stageAfterOps ops s.stage := by
  induction ops generalizing s with
  | nil => rfl
  | cons m ops ih => rw [completeAll_cons, ih, complete_stage]; rfl

theorem runPlan_of_acceptsAll (p : Plan) {s : State} (h : s.acceptsAll) :
    runPlan p s = respond p (completeAll p.ops s.startCommand) :=
  runPlan_of_accepts p s (State.accepts_none h _)

/-- A command after which the unit is idle has completed all its events and responded (R78, R92). -/
theorem runPlan_of_idle {p : Plan} {s : State} (h : (runPlan p s).busy = false) :
    runPlan p s = respond p (completeAll p.ops s.startCommand) := by
  rcases perform_cases p p.ops s.startCommand with hall | ⟨done, m, rest, -, hstall, -⟩
  · exact hall
  · have hrun : runPlan p s = completeAll done s.startCommand := hstall
    rw [hrun, completeAll_busy] at h
    cases h

/-! ### The resting stage -/

/-- The stage a command leaves behind: only `BEGIN` and `RESET` change it (R12, R69). -/
theorem stageAfterOps_planOf (i : Instr) (entry : Stage) :
    stageAfterOps (planOf i entry).ops entry =
      if i = .begin then .running else if i = .reset then .uninitialized else entry := by
  cases i with
  | setmode sel val =>
    simp only [planOf, setmodePlan, reduceCtorEq, if_false]
    split_ifs <;> rfl
  | setfreq freq =>
    rcases lt_or_ge 0 freq with h | h
    · rw [planOf, setfreqPlan_of_pos h]; rfl
    · rw [planOf, setfreqPlan_of_nonpos h]; rfl
  | _ => rfl

/-- The same of a command word, legal or not (R81). -/
theorem stageAfterOps_planOfWord (w : Word) (entry : Stage) :
    stageAfterOps (planOfWord w entry).ops entry =
      if decode w = .instr .begin then .running else if decode w = .instr .reset then .uninitialized else entry := by
  unfold planOfWord
  cases decode w with
  | instr i => simp only [stageAfterOps_planOf, Decoded.instr.injEq]
  | illegal op => rfl

/-- Settles O45: an idle unit has completed every event of the command, so its stage is what they write. -/
theorem restingStage : Obligations.RestingStage := by
  intro i s t ht hb
  rw [exec_eq_runPlan] at ht
  cases ht
  have hstage : (runPlan (planOf i s.stage) s).stage =
      if i = .begin then .running else if i = .reset then .uninitialized else s.stage := by
    rw [runPlan_of_idle hb, respond_stage, completeAll_stage, State.startCommand_stage, stageAfterOps_planOf]
  rw [hstage]
  refine ⟨?_, ?_, ?_⟩
  · rintro rfl; rfl
  · rintro rfl; rfl
  · intro hbegin hreset
    rw [if_neg hbegin, if_neg hreset]

/-! ### A list of command words -/

/-- A ready unit whose transport accepts every event runs the next word to its response, and is ready again (R78). -/
theorem step_of_acceptsAll {s : State} {w : Word} {rest : List Word} (h : s.ready) (hacc : s.acceptsAll)
    (hh : s.host = w :: rest) :
    ∃ t, step s = .next t ∧ t.ready ∧ t.acceptsAll ∧ t.host = rest ∧
      t.stage = stageAfterOps (planOfWord w s.stage).ops s.stage := by
  have hacc' : (acceptWord w rest s).acceptsAll := hacc
  refine ⟨_, step_of_ready h hh, ?_⟩
  rw [runPlan_of_acceptsAll _ hacc']
  refine ⟨⟨?_, rfl⟩, ?_, ?_, ?_⟩
  · rw [respond_resetIn, completeAll_resetIn]; exact h.1
  · have hall : (completeAll (planOfWord w s.stage).ops (acceptWord w rest s).startCommand).acceptsAll := by
      rw [completeAll_acceptsAll]; exact hacc
    exact hall
  · rw [respond_host, completeAll_host]; rfl
  · rw [respond_stage, completeAll_stage]; rfl

theorem run_succ_of_step {M : Host.Core} {s q : M.State} (h : M.step s = .next q) (n : Nat) :
    M.run (n + 1) s = M.run n q := by rw [Host.Core.run, h]

/-- The stage a command word leaves behind (R12, R69, T2). -/
def stageAfterWord (st : Stage) (w : Word) : Stage :=
  if decode w = .instr .begin then .running else if decode w = .instr .reset then .uninitialized else st

theorem run_host_stage {s : State} (h : s.ready) (hacc : s.acceptsAll) :
    ∃ t : State, Host.Core.run Sys2Proof.core s.host.length s = .next t ∧
      t.stage = s.host.foldl stageAfterWord s.stage := by
  induction hh : s.host generalizing s with
  | nil => exact ⟨s, rfl, rfl⟩
  | cons w rest ih =>
    obtain ⟨q, hstep, hq, hqacc, hqhost, hqstage⟩ := step_of_acceptsAll h hacc hh
    obtain ⟨t, hrun, ht⟩ := ih hq hqacc hqhost
    refine ⟨t, (run_succ_of_step (M := Sys2Proof.core) hstep rest.length).trans hrun, ?_⟩
    rw [ht, hqstage, stageAfterOps_planOfWord]; rfl

/-- Settles O53, by induction on the words: each leaves the unit ready, in the stage its plan's events write. -/
theorem stageAfterCommandList : Obligations.StageAfterCommandList := fun _ => run_host_stage

/-! ### The events and the response of a command -/

/-- What a command emits and answers, given the byte read, does not depend on the stage it is accepted in (R16, R75). -/
theorem planOf_stage_irrelevant (i : Instr) (st st' : Stage) (b : Byte) :
    eventsOf (planOf i st).ops b = eventsOf (planOf i st').ops b ∧ (planOf i st).status = (planOf i st').status ∧
      (planOf i st).answersRead = (planOf i st').answersRead := by
  cases i with
  | setfreq freq =>
    rcases lt_or_ge 0 freq with h | h
    · simp only [planOf, setfreqPlan_of_pos h]
      exact ⟨rfl, rfl, rfl⟩
    · simp only [planOf, setfreqPlan_of_nonpos h, and_self]
  | _ => exact ⟨rfl, rfl, rfl⟩

/-- Every command but `READ` has a read-free event list and answers no byte read. -/
theorem planOf_readFree (i : Instr) (st : Stage) (h : ∀ addr reg, i ≠ .read addr reg) :
    readFree (planOf i st).ops = true ∧ (planOf i st).answersRead = false := by
  cases i with
  | setmode sel val =>
    simp only [planOf, setmodePlan]
    split_ifs <;> exact ⟨rfl, rfl⟩
  | setfreq freq =>
    rcases lt_or_ge 0 freq with hf | hf
    · rw [planOf, setfreqPlan_of_pos hf]; exact ⟨rfl, rfl⟩
    · rw [planOf, setfreqPlan_of_nonpos hf]; exact ⟨rfl, rfl⟩
  | read addr reg => exact absurd rfl (h addr reg)
  | _ => exact ⟨rfl, rfl⟩

/-- Only a `Read` uses up the byte the transport answers next (R31). -/
theorem complete_nextAnswer {m : MicroOp} (s : State) (h : m.op ≠ .read) :
    (complete m s).nextAnswer = s.nextAnswer := by simp [State.nextAnswer, complete_spec, h]

theorem complete_readByte (m : MicroOp) (s : State) :
    (complete m s).readByte = if m.op = .read then s.nextAnswer else s.readByte := by simp [complete_spec]

/-- The events of a register read carry the byte the transport answers next, and it is kept (R31, R38). -/
theorem completeAll_regRead (addr reg : Byte) (s : State) :
    (completeAll (regRead addr reg) s).trace = s.trace ++ eventsOf (regRead addr reg) s.nextAnswer ∧
      (completeAll (regRead addr reg) s).readByte = s.nextAnswer := by
  simp [regRead, plain, complete_trace, complete_nextAnswer, complete_readByte, eventsOf, BusOp.event]

/-- The events and the response of a command over a transport that accepts every event: its own event list and status,
with the byte the transport answers next (R47, R75, R78). -/
theorem runPlan_planOf (i : Instr) {s : State} (h : s.acceptsAll) :
    (runPlan (planOf i s.stage) s).trace = s.trace ++ eventsOf (planOf i s.stage).ops s.nextAnswer ∧
    (runPlan (planOf i s.stage) s).responses = s.responses ++
      [{ status := (planOf i s.stage).status
         data := if (planOf i s.stage).answersRead then s.nextAnswer else 0x00 }] := by
  rw [runPlan_of_acceptsAll _ h, respond_trace, respond_responses, completeAll_responses]
  by_cases hread : ∃ addr reg, i = .read addr reg
  · obtain ⟨addr, reg, rfl⟩ := hread
    obtain ⟨htrace, hbyte⟩ := completeAll_regRead addr reg s.startCommand
    exact ⟨htrace, congrArg (fun b => s.responses ++ [{ status := .ok, data := b }]) hbyte⟩
  · obtain ⟨hfree, hans⟩ := planOf_readFree i s.stage fun addr reg hi => hread ⟨addr, reg, hi⟩
    rw [hans, completeAll_spec _ _ hfree s.nextAnswer]
    exact ⟨rfl, rfl⟩

/-- Settles O46: `runPlan_planOf` in both states, and a plan's events do not depend on the stage. -/
theorem operandsDetermineEvents : Obligations.OperandsDetermineEvents := by
  intro i s q t u hs hq hbyte ht hu
  rw [exec_eq_runPlan] at ht hu
  cases ht
  cases hu
  obtain ⟨htrace, hresp⟩ := runPlan_planOf i hs
  obtain ⟨htrace', hresp'⟩ := runPlan_planOf i hq
  obtain ⟨hevents, hstatus, hanswers⟩ := planOf_stage_irrelevant i q.stage s.stage q.nextAnswer
  rw [hevents, ← hbyte] at htrace'
  rw [hstatus, hanswers, ← hbyte] at hresp'
  exact ⟨_, _, htrace, htrace', hresp, hresp'⟩

/-! ### The stage inside a command -/

/-- From the accepted command in `q`, the unit `t` has completed the first `k` events: it stands at the next one, in
the stage the rules' table gives (R76). -/
structure InCommand (q t : State) (k : Nat) : Prop where
  at_event : AtEvent t k
  cmdQ : t.cmdQ = q.cmdQ
  entryStage : t.entryStage = q.entryStage
  host : t.host = q.host
  resetIn : t.resetIn = false
  busy : t.busy = true
  events : t.trace.length = q.trace.length + k
  stage : t.stage = stageInside (decode q.cmdQ) k q.entryStage

theorem InCommand.plan_eq {q t : State} {k : Nat} (h : InCommand q t k) : t.plan = q.plan := by
  rw [State.plan, State.plan, h.cmdQ, h.entryStage]

theorem inCommand_accept {s : State} (hr : s.resetIn = false) (w : Word) (rest : List Word) :
    InCommand (acceptWord w rest s).startCommand (acceptWord w rest s).startCommand 0 where
  at_event := startCommand_atEvent _
  cmdQ := rfl
  entryStage := rfl
  host := rfl
  resetIn := hr
  busy := rfl
  events := rfl
  stage := (stageInside_zero _ _).symm

theorem inCommand_setTimer {q t : State} {k : Nat} (h : InCommand q t k) (us : Option Nat) :
    InCommand q (t.setTimer us) k :=
  ⟨⟨h.at_event.inside, h.at_event.position⟩, h.cmdQ, h.entryStage, h.host, h.resetIn, h.busy, h.events, h.stage⟩

/-- An event that completes makes the stage write of its index (R76). -/
theorem inCommand_complete {q t : State} {k : Nat} {m : MicroOp} {rest : List MicroOp} (h : InCommand q t k)
    (hrem : t.remaining = m :: rest) : InCommand q (complete m t) (k + 1) := by
  have hd : t.plan.ops.drop k = m :: rest := h.at_event.remaining ▸ hrem
  have hmark : m.stageAfter = stageWriteAfter (decode q.cmdQ) k q.entryStage := by
    rw [← h.cmdQ, ← h.entryStage]
    exact (plan_marks t).stageAfter_eq (getElem?_of_drop_eq_cons hd)
  exact {
    at_event := atEvent_complete h.at_event hd
    cmdQ := (complete_cmdQ m t).trans h.cmdQ
    entryStage := (complete_entryStage m t).trans h.entryStage
    host := (complete_host m t).trans h.host
    resetIn := (complete_resetIn m t).trans h.resetIn
    busy := (complete_busy m t).trans h.busy
    events := by rw [complete_trace, List.length_append, h.events]; rfl
    stage := by rw [complete_stage, hmark, h.stage, stageInside_succ] }

/-! ### Every busy state of a command -/

/-- Where smallest steps from the accepted command in `q` can lead: the command is in progress, or it is over, and a
unit that is busy again has taken a further word. -/
def InOrPast (q t : State) : Prop :=
  (∃ k, InCommand q t k) ∨
    (t.resetIn = false ∧ t.host.length ≤ q.host.length ∧ (t.busy = true → t.host.length < q.host.length))

theorem inOrPast_tick_inCommand {q t u : State} {k : Nat} (h : InCommand q t k) (ht : tick t = .next u) :
    InOrPast q u := by
  rw [tick_of_busy h.resetIn h.busy] at ht
  cases ht
  cases hrem : t.remaining with
  | nil =>
    rw [busyTick_nil hrem]
    exact .inr ⟨h.resetIn, (congrArg List.length h.host).le, nofun⟩
  | cons m rest =>
    rcases busyTick_cases hrem with ⟨us, -, -, hu⟩ | ⟨-, hu⟩ | ⟨-, hu⟩ <;> rw [hu]
    · exact .inl ⟨k, inCommand_setTimer h _⟩
    · exact .inl ⟨k, h⟩
    · exact .inl ⟨k + 1, inCommand_complete h hrem⟩

/-- A smallest step of a unit not in reset leaves the reset line low and takes at most one word, and only where the
unit is idle (R38). -/
theorem tick_host {t u : State} (hr : t.resetIn = false) (ht : tick t = .next u) :
    u.resetIn = false ∧ ((u.host = t.host ∧ (u.busy = true → t.busy = true)) ∨ ∃ w, t.host = w :: u.host) := by
  cases hb : t.busy with
  | true =>
    rcases tick_of_busy_cases hb ht with rfl | ⟨us, rfl⟩ | rfl | ⟨m, rfl⟩
    · exact ⟨hr, .inl ⟨rfl, fun _ => rfl⟩⟩
    · exact ⟨hr, .inl ⟨rfl, fun _ => rfl⟩⟩
    · exact ⟨hr, .inl ⟨rfl, fun _ => rfl⟩⟩
    · exact ⟨(complete_resetIn m t).trans hr, .inl ⟨complete_host m t, fun _ => rfl⟩⟩
  | false =>
    cases hh : t.host with
    | nil =>
      rw [tick_of_ready_nil ⟨hr, hb⟩ hh] at ht
      cases ht
      exact ⟨hr, .inl ⟨hh, fun hbusy => hb.symm.trans hbusy⟩⟩
    | cons w rest =>
      rw [tick_of_ready ⟨hr, hb⟩ hh] at ht
      cases ht
      exact ⟨hr, .inr ⟨w, rfl⟩⟩

theorem inOrPast_tick {q t u : State} (h : InOrPast q t) (ht : tick t = .next u) : InOrPast q u := by
  rcases h with ⟨k, hk⟩ | ⟨hr, hle, hlt⟩
  · exact inOrPast_tick_inCommand hk ht
  · obtain ⟨hr', ⟨hhost, hbusy⟩ | ⟨w, hhost⟩⟩ := tick_host hr ht
    · rw [← hhost] at hle hlt
      exact .inr ⟨hr', hle, fun hb => hlt (hbusy hb)⟩
    · have hlen : t.host.length = u.host.length + 1 := congrArg List.length hhost
      exact .inr ⟨hr', by omega, fun _ => by omega⟩

theorem ticks_succ_eq_next {n : Nat} {s t : State} (h : ticks (n + 1) s = .next t) :
    ∃ q, tick s = .next q ∧ ticks n q = .next t := by
  cases hq : tick s with
  | next q => exact ⟨q, rfl, ticks_succ hq n ▸ h⟩
  | fault r => simp [ticks, hq] at h
  | refused r => simp [ticks, hq] at h

/-- What every smallest step keeps, every number of them keeps. -/
theorem ticks_keeps {P : State → Prop} (hP : ∀ t u, P t → tick t = .next u → P u) {n : Nat} {s t : State}
    (hs : P s) (h : ticks n s = .next t) : P t := by
  induction n generalizing s with
  | zero => cases h; exact hs
  | succ n ih =>
    obtain ⟨q, hq, hn⟩ := ticks_succ_eq_next h
    exact ih (hP s q hs hq) hn

/-- Every busy state that smallest steps from acceptance lead to, with no further word taken, is inside the command. -/
theorem inCommand_of_ticks {s t : State} {w : Word} {rest : List Word} {n : Nat} (h : s.ready)
    (hh : s.host = w :: rest) (ht : ticks n s = .next t) (hb : t.busy = true) (hrest : t.host = rest) :
    ∃ k, InCommand (acceptWord w rest s).startCommand t k := by
  cases n with
  | zero =>
    cases ht
    rw [h.2] at hb; cases hb
  | succ n =>
    rw [ticks_succ (tick_of_ready h hh)] at ht
    rcases ticks_keeps (P := InOrPast _) (fun _ _ => inOrPast_tick) (.inl ⟨0, inCommand_accept h.1 w rest⟩) ht with
      hin | ⟨-, -, hlt⟩
    · exact hin
    · have : t.host.length < rest.length := hlt hb
      rw [hrest] at this
      exact absurd this (lt_irrefl _)

/-! ### Every event is reached -/

theorem ticks_trans {a b : Nat} {s q t : State} (hq : ticks a s = .next q) (ht : ticks b q = .next t) :
    ticks (b + a) s = .next t := by
  induction a generalizing s with
  | zero => cases hq; exact ht
  | succ a ih =>
    obtain ⟨r, hr, ha⟩ := ticks_succ_eq_next hq
    exact (ticks_succ hr (b + a)).trans (ih ha)

/-- An event the transport does not stall completes after some smallest steps. -/
theorem exists_ticks_complete {s : State} {m : MicroOp} {rest : List MicroOp} (hr : s.resetIn = false)
    (hb : s.busy = true) (hrem : s.remaining = m :: rest) (hs : s.stalledOn m = false) :
    ∃ n, ticks n s = .next (complete m s) := by
  rcases busyTick_cases hrem with ⟨us, hw, htimer, -⟩ | ⟨hs', -⟩ | ⟨-, ht⟩
  · obtain ⟨hload, hdone⟩ := tick_wait hr hb hrem hw htimer
    exact ⟨2, (ticks_succ hload 1).trans (ticks_succ hdone 0)⟩
  · rw [hs] at hs'; cases hs'
  · exact ⟨1, ticks_succ (ht ▸ tick_of_busy hr hb) 0⟩

/-- A transport that accepts every event lets a command reach each number of completed events (R76, R92). -/
theorem exists_ticks_inCommand {q : State} {k : Nat} (hq : InCommand q q 0) (hacc : q.acceptsAll)
    (hk : k ≤ q.plan.ops.length) : ∃ n t, ticks n q = .next t ∧ InCommand q t k ∧ t.acceptsAll := by
  induction k with
  | zero => exact ⟨0, q, rfl, hq, hacc⟩
  | succ k ih =>
    obtain ⟨a, t, hat, ht, htacc⟩ := ih (Nat.le_of_succ_le hk)
    have hlen : k < t.plan.ops.length := by rw [ht.plan_eq]; exact hk
    have hrem : t.remaining = t.plan.ops[k] :: t.plan.ops.drop (k + 1) := by
      rw [ht.at_event.remaining, List.drop_eq_getElem_cons hlen]
    obtain ⟨b, hb⟩ := exists_ticks_complete ht.resetIn ht.busy hrem (not_stalledOn _ (State.accepts_none htacc 1))
    refine ⟨b + a, _, ticks_trans hat hb, inCommand_complete ht hrem, ?_⟩
    rw [complete_acceptsAll]; exact htacc

/-- Settles O57: every busy state of the command is `InCommand`, and each number of completed events is reached. -/
theorem stageInsideCommand : Obligations.StageInsideCommand := by
  intro s w rest h hh
  constructor
  · intro n t ht hb hrest
    obtain ⟨k, hk⟩ := inCommand_of_ticks h hh ht hb hrest
    have hinside : k ≤ t.plan.ops.length := hk.at_event.inside
    rw [hk.plan_eq] at hinside
    exact ⟨k, hinside, hk.events, hk.stage, congrArg Stage.code hk.stage⟩
  · intro hacc k hk
    obtain ⟨n, t, ht, hin, -⟩ := exists_ticks_inCommand (inCommand_accept h.1 w rest) hacc hk
    exact ⟨n + 1, t, (ticks_succ (tick_of_ready h hh) n).trans ht, hin.busy, hin.host, hin.events, hin.stage⟩

/-! ### The image after the channels are cleared -/

/-- The bytes of a transaction read back at consecutive register addresses, as long as they do not wrap around (R37). -/
theorem read_storeBytes_same (a r : Byte) (data : List Byte) (m : Memory) {i : Nat} (hi : i < data.length)
    (hlen : data.length ≤ 256) :
    (storeBytes a r data m).read (location a (r + BitVec.ofNat 8 i)) = data[i]? := by
  induction data generalizing r m i with
  | nil => cases hi
  | cons d rest ih =>
    rw [List.length_cons] at hi hlen
    rw [storeBytes]
    cases i with
    | zero =>
      have hfirst : ¬ (a = a ∧ ∃ j < rest.length, r + BitVec.ofNat 8 0 = r + 1 + BitVec.ofNat 8 j) := by
        rintro ⟨-, j, hj, h⟩
        bv_omega
      rw [read_storeBytes_other a (r + 1) a _ rest _ hfirst]
      simpa using Memory.read_write_same m (location a r) d
    | succ i =>
      have hnext : r + BitVec.ofNat 8 (i + 1) = r + 1 + BitVec.ofNat 8 i := by rw [BitVec.ofNat_add]; ac_rfl
      rw [hnext, ih (r + 1) _ (by omega) (by omega)]; rfl

/-- The write transaction that blanks channel `c` (R73). -/
def clearWrite (c : Nat) : RegWrite := { addr := addrDefault, reg := chBase c, data := payload 0 }

set_option maxRecDepth 4000 in
theorem regWrites_clearPlan : regWrites (eventsOf clearPlan.ops 0) = (List.range 16).map clearWrite := rfl

theorem chBase_add_toNat {c i : Nat} (hc : c < 16) (hi : i < 4) :
    (chBase c + BitVec.ofNat 8 i).toNat = 0x06 + 4 * c + i := by
  rw [chBase, ← BitVec.ofNat_add, BitVec.toNat_ofNat, Nat.mod_eq_of_lt (by omega)]

/-- The byte of the full-off payload that falls on a channel register: 0x10 in the last of the four registers of a
block, which is the one with address 1 modulo 4 (R49, R64). -/
def fullOffByte (r : Byte) : Byte := if r.toNat % 4 = 1 then 0x10 else 0x00

/-- The registers of channel `c` hold its payload one byte after another. -/
theorem payload_zero_getElem? {c i : Nat} (hc : c < 16) (hi : i < 4) :
    (payload 0)[i]? = some (fullOffByte (chBase c + BitVec.ofNat 8 i)) := by
  have hpayload : payload 0 = [0x00, 0x00, 0x00, 0x10] := by decide
  rw [fullOffByte, chBase_add_toNat hc hi, hpayload]
  have hmod : (0x06 + 4 * c + i) % 4 = 1 ↔ i = 3 := by omega
  simp only [hmod]
  interval_cases i <;> rfl

/-- Blanking one channel makes its block of four registers read full-off and leaves every other location (R73). -/
theorem read_clearWrite (m : Memory) {c : Nat} (hc : c < 16) (a r : Byte) :
    (RegWrite.store m (clearWrite c)).read (location a r) =
      if a = 0x40 ∧ 0x06 + 4 * c ≤ r.toNat ∧ r.toNat < 0x06 + 4 * (c + 1) then some (fullOffByte r)
      else m.read (location a r) := by
  split_ifs with h
  · obtain ⟨rfl, hlow, hhigh⟩ := h
    obtain ⟨i, hi⟩ := Nat.exists_eq_add_of_le hlow
    have hi4 : i < 4 := by omega
    have hr : r = chBase c + BitVec.ofNat 8 i := BitVec.eq_of_toNat_eq (by rw [chBase_add_toNat hc hi4, hi])
    rw [hr, ← payload_zero_getElem? hc hi4]
    exact read_storeBytes_same addrDefault (chBase c) (payload 0) m hi4 (by decide)
  · refine read_storeBytes_other addrDefault (chBase c) a r (payload 0) m ?_
    rintro ⟨rfl, i, hi, rfl⟩
    have hi4 : i < 4 := hi
    rw [chBase_add_toNat hc hi4] at h
    exact h ⟨rfl, by omega, by omega⟩

/-- What a location reads once the first `n` channels are blanked (R73). -/
theorem read_clearWrites (m : Memory) {n : Nat} (hn : n ≤ 16) (a r : Byte) :
    (((List.range n).map clearWrite).foldl RegWrite.store m).read (location a r) =
      if a = 0x40 ∧ 0x06 ≤ r.toNat ∧ r.toNat < 0x06 + 4 * n then some (fullOffByte r)
      else m.read (location a r) := by
  induction n with
  | zero => rw [if_neg (by omega)]; rfl
  | succ n ih =>
    rw [List.range_succ, List.map_append, List.foldl_append, List.map_singleton, List.foldl_cons, List.foldl_nil,
      read_clearWrite _ hn, ih (Nat.le_of_succ_le hn), ← ite_or]
    exact if_congr (and_or_left.symm.trans (and_congr_right' (by omega))) rfl rfl

/-- The trace of `CLEAR` over a transport that accepts its 112 bus events (R73). -/
theorem runPlan_clearPlan_trace {s : State} (h : s.accepts 112) :
    (runPlan clearPlan s).trace = s.trace ++ eventsOf clearPlan.ops 0 := by
  have hbus : busOps clearPlan.ops = 112 := rfl
  have hfree : readFree clearPlan.ops = true := rfl
  rw [runPlan_of_accepts _ _ (hbus ▸ h), completeAll_spec _ _ hfree 0]; rfl

/-- Settles O41: both commands have the plan of `CLEAR`, whose transactions blank the channels one after another. -/
theorem clearImage : Obligations.ClearImage := by
  intro s t i hi hacc ht a r
  have hplan : planOf i s.stage = clearPlan := by
    rcases hi with rfl | ⟨freq, hfreq, rfl⟩
    · rfl
    · exact setfreqPlan_of_nonpos hfreq s.stage
  rw [exec_eq_runPlan, hplan] at ht
  cases ht
  have himage : imageOf (runPlan clearPlan s).trace =
      ((List.range 16).map clearWrite).foldl RegWrite.store (imageOf s.trace) := by
    rw [runPlan_clearPlan_trace hacc, ← regWrites_clearPlan]
    exact imageOf_append_beginTx s.trace addrDefault _
  rw [imageAt, himage, read_clearWrites _ le_rfl]
  exact if_congr (and_congr_right' (and_congr_right' Nat.lt_succ_iff)) rfl rfl

end Sys2Proof.Machine

/-! The memory family (20_memory.md): the register image after each command (O38, O39, O40, O42), its canonical form
(O43) and the registers a command names (O44), `READ` (O25, O26), the answers as an input of `READ` alone (O47), and
the trace of a list of words (O52). The image rests on `writesOf`: the write transactions of each command as a table. -/

namespace Sys2Proof.Machine

/-! ### What an event list leaves of the transport and the open transaction -/

/-- The transport has taken the bus events of the list (R92). -/
theorem completeAll_tReady (ops : List MicroOp) (s : State) :
    (completeAll ops s).tReady = s.tReady.map (fun n => n - busOps ops) := by
  induction ops generalizing s with
  | nil => cases h : s.tReady <;> simp [h]
  | cons m ops ih =>
    rw [completeAll_cons, ih, busOps_cons, complete_spec]
    cases m.op.onBus
    · simp
    · simp only [if_true, map_sub_sub, Bool.toNat_true]

theorem completeAll_openTx (ops : List MicroOp) (s : State) :
    (completeAll ops s).openTx = openAfter ops s.openTx := by
  induction ops generalizing s with
  | nil => rfl
  | cons m ops ih => rw [completeAll_cons, ih, complete_openTx]; rfl

@[simp] theorem completeAll_entryStage (ops : List MicroOp) (s : State) :
    (completeAll ops s).entryStage = s.entryStage :=
  completeAll_keeps State.entryStage complete_entryStage ops s

/-! ### READ -/

/-- A register read uses up one answer of the transport (R31). -/
theorem completeAll_regRead_answers (addr reg : Byte) (s : State) :
    (completeAll (regRead addr reg) s).answers = s.answers.tail := by
  simp [regRead, plain, complete_spec]

/-- A `READ` whose six events the transport accepts completes, and answers the byte drawn (R31, R74). -/
theorem runPlan_readPlan (addr reg : Byte) {s : State} (h : s.accepts 6) :
    Completes s (runPlan (readPlan addr reg) s) (readEvents addr reg s.nextAnswer) s.stage .ok s.nextAnswer ∧
      (runPlan (readPlan addr reg) s).answers = s.answers.tail ∧
      (runPlan (readPlan addr reg) s).readByte = s.nextAnswer := by
  have hrun : runPlan (readPlan addr reg) s =
      respond (readPlan addr reg) (completeAll (regRead addr reg) s.startCommand) :=
    runPlan_of_accepts (readPlan addr reg) s h
  obtain ⟨htrace, hbyte⟩ := completeAll_regRead addr reg s.startCommand
  rw [hrun]
  refine ⟨?_, completeAll_regRead_answers addr reg s.startCommand, hbyte⟩
  exact {
    trace := htrace
    stage := by rw [respond_stage, completeAll_stage]; rfl
    responses := by rw [respond_responses, completeAll_responses, hbyte]; rfl
    rspValid := rfl
    rspStatus := rfl
    rspData := hbyte
    busy := rfl
    seqStep := rfl
    chan := rfl
    timer := rfl
    openTx := by rw [respond_openTx, completeAll_openTx]; rfl
    entryStage := by rw [respond_entryStage, completeAll_entryStage]; rfl
    host := by rw [respond_host, completeAll_host]; rfl
    resetIn := by rw [respond_resetIn, completeAll_resetIn]; rfl
    tReady := by rw [respond_tReady, completeAll_tReady]; rfl }

theorem nextAnswer_of_answers {s : State} {b : Byte} {rest : List Byte} (h : s.answers = b :: rest) :
    s.nextAnswer = b := by simp [State.nextAnswer, h]

/-- Settles O25: the byte drawn is the first answer listed. -/
theorem readReturnsTheBusByte : Obligations.ReadReturnsTheBusByte := by
  intro s addr reg b rest hans hacc
  obtain ⟨hcompletes, hanswers, hbyte⟩ := runPlan_readPlan addr reg hacc
  rw [nextAnswer_of_answers hans] at hcompletes hbyte
  rw [hans, List.tail_cons] at hanswers
  exact ⟨_, rfl, hcompletes, hanswers, hbyte⟩

/-- Settles O26: the byte drawn is the free value of an empty list of answers. -/
theorem readWithoutAnswerCompletes : Obligations.ReadWithoutAnswerCompletes := by
  intro s addr reg hans hacc
  obtain ⟨hcompletes, hanswers, hbyte⟩ := runPlan_readPlan addr reg hacc
  rw [hans, List.tail_nil] at hanswers
  exact ⟨_, s.nextAnswer, rfl, hcompletes, hanswers, hbyte⟩

/-! ### The answers of the transport -/

/-- The same state with another list of answers (R31). -/
def State.withAnswers (s : State) (answers : List Byte) : State := { s with answers := answers }

/-- An event that is no `Read` does not see the answers. -/
theorem complete_withAnswers {m : MicroOp} (h : m.op ≠ .read) (s : State) (answers : List Byte) :
    complete m (s.withAnswers answers) = (complete m s).withAnswers answers := by
  obtain ⟨op, st, nx⟩ := m
  cases op with
  | read => exact absurd rfl h
  | _ => rfl

theorem perform_withAnswers (p : Plan) {ops : List MicroOp} (h : readFree ops = true) (s : State)
    (answers : List Byte) : perform p ops (s.withAnswers answers) = (perform p ops s).withAnswers answers := by
  induction ops generalizing s with
  | nil => rfl
  | cons m ops ih =>
    simp only [readFree, List.all_cons, Bool.and_eq_true, decide_eq_true_eq] at h
    obtain ⟨hm, hops⟩ := h
    have hstall : (s.withAnswers answers).stalledOn m = s.stalledOn m := rfl
    cases hs : s.stalledOn m with
    | true => rw [perform_cons_stall hs, perform_cons_stall (hstall.trans hs)]
    | false => rw [perform_cons_go hs, perform_cons_go (hstall.trans hs), complete_withAnswers hm, ih hops]

/-- Settles O47: the event list of a command other than `READ` is read-free, and no event of it sees the answers. -/
theorem answersReachOnlyReads : Obligations.AnswersReachOnlyReads := by
  intro i s answers hi
  refine ⟨_, exec_eq_runPlan i s, (exec_eq_runPlan i (s.withAnswers answers)).trans (congrArg _ ?_)⟩
  exact perform_withAnswers _ (planOf_readFree i s.stage hi).1 s.startCommand answers

/-! ### The trace of a list of words -/

/-- The trace of a command's events: its own event list, with the byte the transport answers next. -/
theorem completeAll_planOf_trace (i : Instr) (st : Stage) (s : State) :
    (completeAll (planOf i st).ops s).trace = s.trace ++ eventsOf (planOf i st).ops s.nextAnswer := by
  by_cases hread : ∃ addr reg, i = .read addr reg
  · obtain ⟨addr, reg, rfl⟩ := hread
    exact (completeAll_regRead addr reg s).1
  · obtain ⟨hfree, -⟩ := planOf_readFree i st fun addr reg hi => hread ⟨addr, reg, hi⟩
    rw [completeAll_spec _ _ hfree s.nextAnswer]

/-- The same of a command word, legal or not (R81). -/
theorem completeAll_planOfWord_trace (w : Word) (st : Stage) (s : State) :
    (completeAll (planOfWord w st).ops s).trace = s.trace ++ eventsOf (planOfWord w st).ops s.nextAnswer := by
  unfold planOfWord
  cases decode w with
  | instr i => exact completeAll_planOf_trace i st s
  | illegal op => exact (List.append_nil s.trace).symm

theorem planOfWord_stage_irrelevant (w : Word) (st st' : Stage) (b : Byte) :
    eventsOf (planOfWord w st).ops b = eventsOf (planOfWord w st').ops b := by
  unfold planOfWord
  cases decode w with
  | instr i => exact (planOf_stage_irrelevant i st st' b).1
  | illegal op => rfl

/-- A ready unit whose transport accepts every event appends the next word's event list to the trace (R32). -/
theorem trace_of_step {s t : State} {w : Word} {rest : List Word} (h : s.ready) (hacc : s.acceptsAll)
    (hh : s.host = w :: rest) (ht : step s = .next t) :
    ∃ b, ∀ st, t.trace = s.trace ++ eventsOf (planOfWord w st).ops b := by
  have hacc' : (acceptWord w rest s).acceptsAll := hacc
  rw [step_of_ready h hh, runPlan_of_acceptsAll _ hacc'] at ht
  cases ht
  refine ⟨(acceptWord w rest s).startCommand.nextAnswer, fun st => ?_⟩
  rw [planOfWord_stage_irrelevant w st s.stage]
  exact completeAll_planOfWord_trace w s.stage _

/-- Settles O52, by induction on the words: each step appends the event list of its word. -/
theorem traceIsConcatenation : Obligations.TraceIsConcatenation := by
  intro s h hacc
  induction hh : s.host generalizing s with
  | nil => exact ⟨s, [], rfl, rfl, fun _ => (List.append_nil s.trace).symm⟩
  | cons w rest ih =>
    obtain ⟨q, hstep, hq, hqacc, hqhost, -⟩ := step_of_acceptsAll h hacc hh
    obtain ⟨b, hb⟩ := trace_of_step h hacc hh hstep
    obtain ⟨t, bytes, hrun, hlen, ht⟩ := ih q hq hqacc hqhost
    refine ⟨t, b :: bytes, (run_succ_of_step (M := Sys2Proof.core) hstep rest.length).trans hrun,
      congrArg (· + 1) hlen, fun st => ?_⟩
    rw [ht st, hb st, List.append_assoc]; rfl

/-! ### The write transactions of each command -/

/-- One byte written to one register (R26). -/
def byteWrite (a r d : Byte) : RegWrite := { addr := a, reg := r, data := [d] }

/-- The write transactions that program the prescale `p`: asleep, the prescale, awake (R57). -/
def programWrites (p : Byte) : List RegWrite :=
  [byteWrite addrDefault regMode1 mode1Sleep, byteWrite addrDefault regPrescale p,
    byteWrite addrDefault regMode1 mode1Normal]

/-- The write transactions of each command, in order (R58, R66, R70 to R74). -/
def writesOf (i : Instr) : List RegWrite :=
  match i with
  | .begin => byteWrite addrDefault regMode1 mode1Normal :: byteWrite addrDefault regMode2 mode2Default ::
      programWrites (BitVec.ofNat 8 (prescale (fMax * rawPerHz)))
  | .setmode sel val =>
    if sel = 1 then [byteWrite addrDefault regMode1 val]
    else if sel = 2 then [byteWrite addrDefault regMode2 val] else []
  | .setfreq freq =>
    if freq ≤ 0 then (List.range 16).map clearWrite
    else programWrites (BitVec.ofNat 8 (prescale (clampFreq freq)))
  | .reset => [byteWrite addrBroadcast regMode1 resetPattern]
  | .clear => (List.range 16).map clearWrite
  | .awrite addr chan value =>
    [{ addr := addr, reg := chBase (clampChannel chan), data := payload (clampValue value) }]
  | .read addr reg => [{ addr := addr, reg := reg, data := [] }]

/-- The events of a read-free list do not depend on the byte read. -/
theorem eventsOf_of_readFree {ops : List MicroOp} (h : readFree ops = true) (b c : Byte) :
    eventsOf ops b = eventsOf ops c := by
  refine List.map_congr_left fun m hm => ?_
  have hop : m.op ≠ .read := by simpa using List.all_eq_true.mp h m hm
  cases hm' : m.op with
  | read => exact absurd hm' hop
  | _ => rfl

theorem regWrites_clear (b : Byte) : regWrites (eventsOf clearPlan.ops b) = (List.range 16).map clearWrite := by
  have hfree : readFree clearPlan.ops = true := rfl
  rw [eventsOf_of_readFree hfree b 0, regWrites_clearPlan]

/-- The table says what the event lists say, whatever byte is read and whatever the stage (R26, R37). -/
theorem regWrites_planOf (i : Instr) (st : Stage) (b : Byte) :
    regWrites (eventsOf (planOf i st).ops b) = writesOf i := by
  cases i with
  | setmode sel val =>
    simp only [planOf, setmodePlan, writesOf]
    split_ifs <;> rfl
  | setfreq freq =>
    rcases lt_or_ge 0 freq with h | h
    · rw [planOf, setfreqPlan_of_pos h, writesOf, if_neg (not_le.mpr h)]; rfl
    · rw [planOf, setfreqPlan_of_nonpos h, writesOf, if_pos h, regWrites_clear]
  | clear => exact regWrites_clear b
  | _ => rfl

/-- A `SetClock` belongs to no transaction (R8). -/
theorem regWritesFrom_setClock (cur : OpenTx) (hz : BitVec 32) (es : List Event) :
    regWritesFrom cur (.setClock hz :: es) = regWritesFrom cur es := by
  cases cur <;> rfl

/-- A transaction left open before a command does not reach the command's own transactions. -/
theorem regWritesFrom_planOf (i : Instr) (st : Stage) (b : Byte) (cur : OpenTx) :
    regWritesFrom cur (eventsOf (planOf i st).ops b) = writesOf i := by
  rw [← regWrites_planOf i st b]
  cases i with
  | begin =>
    exact (regWritesFrom_setClock cur _ _).trans (regWritesFrom_beginTx cur _ _)
  | setmode sel val =>
    simp only [planOf, setmodePlan]
    split_ifs
    · exact regWritesFrom_beginTx cur _ _
    · exact regWritesFrom_beginTx cur _ _
    · rfl
  | setfreq freq =>
    rcases lt_or_ge 0 freq with h | h
    · rw [planOf, setfreqPlan_of_pos h]; exact regWritesFrom_beginTx cur _ _
    · rw [planOf, setfreqPlan_of_nonpos h]; exact regWritesFrom_beginTx cur _ _
  | _ => exact regWritesFrom_beginTx cur _ _

/-! ### The registers a command names -/

/-- A transaction that carries data names mode-1, mode-2 or the prescale register with one byte, or a channel base
with four (R25). -/
def RegWrite.known (w : RegWrite) : Prop :=
  w.data ≠ [] → ((w.reg = 0x00 ∨ w.reg = 0x01 ∨ w.reg = 0xFE) ∧ w.data.length = 1) ∨
    (∃ c < 16, w.reg = BitVec.ofNat 8 (0x06 + 4 * c)) ∧ w.data.length = 4

theorem byteWrite_known {r : Byte} (a d : Byte) (h : r = regMode1 ∨ r = regMode2 ∨ r = regPrescale) :
    (byteWrite a r d).known := fun _ => .inl ⟨h, rfl⟩

theorem channelWrite_known (a : Byte) {c : Nat} (v : Nat) (h : c < 16) :
    RegWrite.known { addr := a, reg := chBase c, data := payload v } := fun _ => .inr ⟨⟨c, h, rfl⟩, rfl⟩

theorem clampChannel_lt (chan : Int) : clampChannel chan < 16 := by
  rw [clampChannel_cases]; split_ifs <;> omega

theorem clearWrites_known : ∀ w ∈ (List.range 16).map clearWrite, w.known := by
  intro w hw
  obtain ⟨c, hc, rfl⟩ := List.mem_map.mp hw
  exact channelWrite_known addrDefault 0 (List.mem_range.mp hc)

theorem programWrites_known (p : Byte) : ∀ w ∈ programWrites p, w.known := by
  simp only [programWrites, List.forall_mem_cons]
  exact ⟨byteWrite_known _ _ (.inl rfl), byteWrite_known _ _ (.inr (.inr rfl)),
    byteWrite_known _ _ (.inl rfl), nofun⟩

theorem writesOf_known (i : Instr) : ∀ w ∈ writesOf i, w.known := by
  cases i with
  | begin =>
    simp only [writesOf, List.forall_mem_cons]
    exact ⟨byteWrite_known _ _ (.inl rfl), byteWrite_known _ _ (.inr (.inl rfl)), programWrites_known _⟩
  | setmode sel val =>
    rw [writesOf]
    split_ifs
    · exact List.forall_mem_singleton.mpr (byteWrite_known _ _ (.inl rfl))
    · exact List.forall_mem_singleton.mpr (byteWrite_known _ _ (.inr (.inl rfl)))
    · nofun
  | setfreq freq =>
    rw [writesOf]
    split_ifs
    · exact clearWrites_known
    · exact programWrites_known _
  | reset => exact List.forall_mem_singleton.mpr (byteWrite_known _ _ (.inl rfl))
  | clear => exact clearWrites_known
  | awrite addr chan value => exact List.forall_mem_singleton.mpr (channelWrite_known _ _ (clampChannel_lt chan))
  | read addr reg => exact List.forall_mem_singleton.mpr (absurd rfl)

/-- Settles O44: the transactions are those of the table, and each row of it names known registers. -/
theorem onlyKnownRegistersWritten : Obligations.OnlyKnownRegistersWritten := by
  constructor
  · intro i st b
    rw [regWrites_planOf]
    exact writesOf_known i
  · intro addr reg st b
    exact regWrites_planOf (.read addr reg) st b

/-! ### The image after a command -/

/-- Settles O43: every transaction stored keeps the canonical form. -/
theorem imageIsCanonical : Obligations.ImageIsCanonical := fun tr =>
  List.foldlRecOn (motive := fun m : Memory => m.wf = true) (regWrites tr) RegWrite.store rfl
    fun m hm w _ => wf_storeBytes w.addr w.reg w.data m hm

/-- A command whose events the transport accepts stores its transactions in the image, in order (R37). -/
theorem imageOf_exec {i : Instr} {s t : State} (hacc : s.accepts (busOps (planOf i s.stage).ops))
    (ht : exec i s = .next t) : imageOf t.trace = (writesOf i).foldl RegWrite.store (imageOf s.trace) := by
  rw [exec_eq_runPlan, runPlan_of_accepts _ _ hacc] at ht
  cases ht
  rw [respond_trace, completeAll_planOf_trace, imageOf, regWrites, regWritesFrom_append, regWritesFrom_planOf,
    List.foldl_append]
  rfl

theorem read_store_byteWrite (m : Memory) (a r d b q : Byte) :
    (RegWrite.store m (byteWrite a r d)).read (location b q) =
      if b = a ∧ q = r then some d else m.read (location b q) := by
  split_ifs with h
  · obtain ⟨rfl, rfl⟩ := h
    exact Memory.read_write_same m (location b q) d
  · exact Memory.read_write_other m d (mt location_inj.mp h)

/-- Programming a prescale leaves the normal mode-1 byte, over the sleep byte, and the prescale (R57). -/
theorem read_programWrites (m : Memory) (p a r : Byte) :
    ((programWrites p).foldl RegWrite.store m).read (location a r) =
      if a = 0x40 ∧ r = 0x00 then some mode1Normal else if a = 0x40 ∧ r = 0xFE then some p
      else m.read (location a r) := by
  simp only [programWrites, List.foldl_cons, List.foldl_nil, read_store_byteWrite, addrDefault, regMode1, regPrescale]
  split_ifs <;> rfl

theorem accepts_zero (s : State) : s.accepts 0 := by
  cases h : s.tReady with
  | none => exact State.accepts_none h 0
  | some k => exact (State.accepts_some h 0).mpr (Nat.zero_le k)

/-- Settles O42: a `READ` has one transaction without data, an invalid selector none. -/
theorem noStoreImage : Obligations.NoStoreImage := by
  intro s t i hi ht a r
  have himage : imageOf t.trace = imageOf s.trace := by
    rcases hi with ⟨addr, reg, rfl, hacc⟩ | ⟨sel, val, rfl, h1, h2⟩
    · exact imageOf_exec hacc ht
    · have hacc : s.accepts (busOps (planOf (.setmode sel val) s.stage).ops) := by
        rw [planOf, setmodePlan_of_invalid h1 h2]
        exact accepts_zero s
      rw [imageOf_exec hacc ht, writesOf, if_neg h1, if_neg h2, List.foldl_nil]
  rw [imageAt, imageAt, himage]

/-- Settles O39: each command has the one transaction of the table. -/
theorem modeWriteImage : Obligations.ModeWriteImage := by
  intro s t hacc
  constructor
  · rintro sel val (rfl | rfl) ht a r <;> rw [imageAt, imageOf_exec hacc ht] <;>
      exact read_store_byteWrite (imageOf s.trace) _ _ _ a r
  · intro ht a r
    rw [imageAt, imageOf_exec hacc ht]
    exact read_store_byteWrite (imageOf s.trace) _ _ _ a r

/-- Settles O40: `read_programWrites` over the image before, and for `BEGIN` over its two mode writes. -/
theorem frequencyImage : Obligations.FrequencyImage := by
  intro s t
  constructor
  · intro hacc ht a r
    have hprescale : BitVec.ofNat 8 (prescale (fMax * rawPerHz)) = 4 := by decide
    rw [imageAt, imageOf_exec hacc ht, writesOf, List.foldl_cons, List.foldl_cons, read_programWrites,
      read_store_byteWrite, read_store_byteWrite, hprescale]
    have hdistinct : a = 0x40 ∧ r = 0xFE → ¬ (a = 0x40 ∧ r = 0x01) := by
      rintro ⟨-, rfl⟩ ⟨-, h⟩
      cases h
    by_cases hmode1 : a = 0x40 ∧ r = 0x00
    · rw [if_pos hmode1, if_pos hmode1]
    · have hmode1' : ¬ (a = addrDefault ∧ r = regMode1) := hmode1
      rw [if_neg hmode1, if_neg hmode1, if_neg hmode1']
      exact ite_ite_comm _ _ _ _ hdistinct
  · intro freq hfreq hacc ht a r
    have hacc' : s.accepts (busOps (planOf (.setfreq freq) s.stage).ops) := by
      rw [planOf, setfreqPlan_of_pos hfreq]
      exact hacc
    rw [imageAt, imageOf_exec hacc' ht, writesOf, if_neg (not_le.mpr hfreq), read_programWrites]
    rfl

/-! ### The image after AWRITE -/

/-- The base of the nearest channel is the base of the clamped one (R61, R64). -/
theorem chBase_clampChannel (chan : Int) : chBase (clampChannel chan) = expectedBase chan := by
  rw [clampChannel_cases, expectedBase]
  split_ifs with hlow hhigh
  · rfl
  · rfl
  · obtain ⟨n, rfl⟩ := Int.eq_ofNat_of_zero_le (not_lt.mp hlow)
    exact (BitVec.ofInt_natCast 8 (6 + 4 * n)).symm

theorem payload_of_inner {v : Nat} (h0 : v ≠ 0) (h1 : v < 4095) :
    payload v = [0x00, 0x00, BitVec.ofNat 8 (v % 256), BitVec.ofNat 8 (v / 256)] := by
  have hmax : v ≠ valueMax := h1.ne
  have hhi : v / 256 % 256 = v / 256 := Nat.mod_eq_of_lt (by omega)
  simp only [payload, fields, if_neg hmax, if_neg h0, packFields, lo8, hi8, hhi]
  rfl

/-- The payload of the saturated value is full-on, full-off, or the value low byte first (R49, R62, R63). -/
theorem payload_clampValue (value : Int) : payload (clampValue value) = expectedPayload value := by
  rw [expectedPayload]
  split_ifs with hfull hoff
  · have hclamp : clampValue value = 4095 := by rw [clampValue_cases]; split_ifs <;> omega
    rw [hclamp]; decide
  · have hclamp : clampValue value = 0 := by rw [clampValue_cases]; split_ifs <;> omega
    rw [hclamp]; decide
  · obtain ⟨n, rfl⟩ := Int.eq_ofNat_of_zero_le (not_le.mp hoff).le
    have hclamp : clampValue n = n := by rw [clampValue_cases]; split_ifs <;> omega
    rw [hclamp, payload_of_inner (by omega) (by omega)]; rfl

/-- Settles O38: the one transaction stored reads back at its four addresses and nowhere else. -/
theorem awriteImage : Obligations.AwriteImage := by
  intro s t addr chan value hacc ht
  have himage : imageOf t.trace = storeBytes addr (expectedBase chan) (expectedPayload value) (imageOf s.trace) := by
    rw [imageOf_exec hacc ht, ← chBase_clampChannel, ← payload_clampValue]; rfl
  have hlen : (expectedPayload value).length = 4 := by rw [← payload_clampValue]; rfl
  constructor
  · intro i hi
    rw [imageAt, himage]
    exact read_storeBytes_same _ _ _ _ (by omega) (by omega)
  · intro a r h
    rw [imageAt, himage, imageAt]
    refine read_storeBytes_other _ _ _ _ _ _ ?_
    rintro ⟨ha, i, hi, hr⟩
    exact h ha i (hlen ▸ hi) hr

end Sys2Proof.Machine

/-! The encoding family (30_encoding.md), the command word: decode and encode agree (O1 to O4), the worked words (O5).
All rest on `decode_eq_instr_iff`: a word decodes to a command exactly when it carries the command's opcode and its
operands. -/

namespace Sys2Proof

/-! ### What a word decodes to -/

/-- The operand fields of a word, as the command's format reads them, hold the command's operands (R39 to R43, R45). -/
def Instr.WrittenIn (i : Instr) (w : Word) : Prop :=
  match i with
  | .begin => True
  | .setmode sel val => w.extractLsb' 8 8 = sel ∧ w.extractLsb' 0 8 = val
  | .setfreq freq => (w.extractLsb' 0 32).toInt = freq
  | .reset => True
  | .clear => True
  | .awrite addr chan value =>
    w.extractLsb' 24 8 = addr ∧ (w.extractLsb' 16 8).toInt = chan ∧ (w.extractLsb' 0 16).toInt = value
  | .read addr reg => w.extractLsb' 8 8 = addr ∧ w.extractLsb' 0 8 = reg

/-- A word decodes to a command exactly when it carries the command's opcode and operands (R44, R45). -/
theorem decode_eq_instr_iff {w : Word} {i : Instr} : decode w = .instr i ↔ opField w = opcode i ∧ i.WrittenIn w := by
  constructor
  · intro h
    unfold decode at h
    split at h
    case h_8 => cases h
    all_goals
      rename_i hop
      cases h
      exact ⟨BitVec.eq_of_toNat_eq hop, by simp [decodeM, decodeF, decodeW, decodeR, Instr.WrittenIn]⟩
  · rintro ⟨hop, hargs⟩
    unfold decode
    rw [hop]
    cases i with
    | begin => rfl
    | setmode sel val => obtain ⟨rfl, rfl⟩ := hargs; rfl
    | setfreq freq => obtain rfl := hargs; rfl
    | reset => rfl
    | clear => rfl
    | awrite addr chan value => obtain ⟨rfl, rfl, rfl⟩ := hargs; rfl
    | read addr reg => obtain ⟨rfl, rfl⟩ := hargs; rfl

/-- The decoder rejects a word with its opcode exactly when no command has that opcode (R46). -/
theorem decode_eq_illegal_iff {w : Word} {op : Byte} :
    decode w = .illegal op ↔ op = opField w ∧ ((opField w).toNat = 0 ∨ 8 ≤ (opField w).toNat) := by
  unfold decode
  split
  case h_8 =>
    simp only [imp_false] at *
    have hop : (opField w).toNat = 0 ∨ 8 ≤ (opField w).toNat := by omega
    rw [Decoded.illegal.injEq, eq_comm, and_iff_left hop]
  all_goals simp [*]

/-- Settles O4: `decode_eq_illegal_iff`, the opcode being bits 39:32. -/
theorem illegalOpcodes : Obligations.IllegalOpcodes := by
  rintro w op
  rw [decode_eq_illegal_iff]
  exact and_congr_right fun h => by rw [h]

/-! ### Decoding an encoded command -/

theorem opField_encode (i : Instr) : opField (encode i) = opcode i := opField_append _ _

theorem extract_encode (i : Instr) {lo n : Nat} (h : lo + n ≤ 32) :
    (encode i).extractLsb' lo n = (encodeArg i).extractLsb' lo n := extract_operand _ _ lo n h

/-- The middle one of three fields put together. -/
theorem extract_middle {n m k : Nat} (x : BitVec n) (y : BitVec m) (z : BitVec k) :
    (x ++ y ++ z).extractLsb' k m = y := by
  rw [BitVec.extractLsb'_append_eq_of_le le_rfl, Nat.sub_self, BitVec.extractLsb'_append_eq_right]

/-- The top one of three fields put together. -/
theorem extract_top {n m k : Nat} (x : BitVec n) (y : BitVec m) (z : BitVec k) :
    (x ++ y ++ z).extractLsb' (m + k) n = x := by
  rw [BitVec.extractLsb'_append_eq_of_le (Nat.le_add_left k m), Nat.add_sub_cancel, BitVec.extractLsb'_append_eq_left]

theorem freqFits_iff {freq : Int} : freqFits freq = true ↔ -2147483648 ≤ freq ∧ freq ≤ 2147483647 := by
  simp [freqFits]

theorem chanFits_iff {chan : Int} : chanFits chan = true ↔ -128 ≤ chan ∧ chan ≤ 127 := by simp [chanFits]

theorem valueFits_iff {value : Int} : valueFits value = true ↔ -32768 ≤ value ∧ value ≤ 32767 := by simp [valueFits]

theorem wellFormed_awrite_iff {addr : Byte} {chan value : Int} :
    (Instr.awrite addr chan value).wellFormed = true ↔
      (-128 ≤ chan ∧ chan ≤ 127) ∧ -32768 ≤ value ∧ value ≤ 32767 := by
  rw [Instr.wellFormed, Bool.and_eq_true, chanFits_iff, valueFits_iff]

/-- The word of a well-formed command holds its operands: what fits its field is read back from it (R40, R42, R45). -/
theorem writtenIn_encode {i : Instr} (h : i.wellFormed = true) : i.WrittenIn (encode i) := by
  cases i with
  | begin => trivial
  | setmode sel val =>
    constructor
    · exact (extract_encode _ (by decide)).trans (extract_middle 0#16 sel val)
    · exact (extract_encode _ (by decide)).trans BitVec.extractLsb'_append_eq_right
  | setfreq freq =>
    obtain ⟨hlow, hhigh⟩ := freqFits_iff.mp h
    rw [Instr.WrittenIn, extract_encode _ (by decide), encodeArg, BitVec.extractLsb'_eq_self]
    exact BitVec.toInt_ofInt_eq_self (by decide) hlow (Int.lt_add_one_of_le hhigh)
  | reset => trivial
  | clear => trivial
  | awrite addr chan value =>
    obtain ⟨⟨hclow, hchigh⟩, hvlow, hvhigh⟩ := wellFormed_awrite_iff.mp h
    refine ⟨?_, ?_, ?_⟩
    · exact (extract_encode _ (by decide)).trans (extract_top addr _ _)
    · rw [extract_encode _ (by decide), encodeArg, extract_middle]
      exact BitVec.toInt_ofInt_eq_self (by decide) hclow (Int.lt_add_one_of_le hchigh)
    · rw [extract_encode _ (by decide), encodeArg, BitVec.extractLsb'_append_eq_right]
      exact BitVec.toInt_ofInt_eq_self (by decide) hvlow (Int.lt_add_one_of_le hvhigh)
  | read addr reg =>
    constructor
    · exact (extract_encode _ (by decide)).trans (extract_middle 0#16 addr reg)
    · exact (extract_encode _ (by decide)).trans BitVec.extractLsb'_append_eq_right

/-- Settles O1: the word of a well-formed command carries its opcode and its operands. -/
theorem decodeOfEncode : Obligations.DecodeOfEncode := fun i h =>
  decode_eq_instr_iff.mpr ⟨opField_encode i, writtenIn_encode h⟩

/-! ### Ignored bits -/

/-- A field that a mask keeps whole reads as before. -/
theorem extract_and_of_allOnes {w m : Word} {lo n : Nat} (h : m.extractLsb' lo n = BitVec.allOnes n) :
    (w &&& m).extractLsb' lo n = w.extractLsb' lo n := by
  rw [BitVec.extractLsb'_and, h, BitVec.and_allOnes]

theorem opField_and_usedBits (w : Word) (i : Instr) : opField (w &&& usedBits i) = opField w :=
  extract_and_of_allOnes (by cases i <;> rw [usedBits] <;> rfl)

/-- The used bits of a command are those its operands are read from (R39 to R43). -/
theorem writtenIn_and_usedBits (i : Instr) (w : Word) : i.WrittenIn (w &&& usedBits i) ↔ i.WrittenIn w := by
  cases i with
  | begin => exact Iff.rfl
  | setmode sel val =>
    rw [Instr.WrittenIn, extract_and_of_allOnes (by rw [usedBits]; rfl),
      extract_and_of_allOnes (by rw [usedBits]; rfl)]
    rfl
  | setfreq freq =>
    rw [Instr.WrittenIn, extract_and_of_allOnes (by rw [usedBits]; rfl)]
    rfl
  | reset => exact Iff.rfl
  | clear => exact Iff.rfl
  | awrite addr chan value =>
    rw [Instr.WrittenIn, extract_and_of_allOnes (by rw [usedBits]; rfl), extract_and_of_allOnes (by rw [usedBits]; rfl),
      extract_and_of_allOnes (by rw [usedBits]; rfl)]
    rfl
  | read addr reg =>
    rw [Instr.WrittenIn, extract_and_of_allOnes (by rw [usedBits]; rfl),
      extract_and_of_allOnes (by rw [usedBits]; rfl)]
    rfl

/-- Clearing the bits a command ignores does not change whether a word decodes to it (R46). -/
theorem decode_and_usedBits {w : Word} {i : Instr} : decode (w &&& usedBits i) = .instr i ↔ decode w = .instr i := by
  rw [decode_eq_instr_iff, decode_eq_instr_iff, opField_and_usedBits, writtenIn_and_usedBits]

/-- Settles O3: the two words are the same once the ignored bits are cleared. -/
theorem ignoredBitsDoNotMatter : Obligations.IgnoredBitsDoNotMatter := by
  intro w v i hw hagree
  rw [← decode_and_usedBits, hagree] at hw
  exact decode_and_usedBits.mp hw

theorem freqFits_toInt (x : BitVec 32) : freqFits x.toInt = true :=
  freqFits_iff.mpr ⟨BitVec.le_toInt x, Int.le_of_lt_add_one BitVec.toInt_lt⟩

/-- A decoded operand fits its field: it was read from it (R40, R42). -/
theorem wellFormed_of_writtenIn {i : Instr} {w : Word} (h : i.WrittenIn w) : i.wellFormed = true := by
  cases i with
  | begin => rfl
  | setmode sel val => rfl
  | setfreq freq =>
    obtain rfl := h
    exact freqFits_toInt _
  | reset => rfl
  | clear => rfl
  | awrite addr chan value =>
    obtain ⟨-, rfl, rfl⟩ := h
    exact wellFormed_awrite_iff.mpr ⟨⟨BitVec.le_toInt _, Int.le_of_lt_add_one BitVec.toInt_lt⟩,
      BitVec.le_toInt _, Int.le_of_lt_add_one BitVec.toInt_lt⟩
  | read addr reg => rfl

/-- A masked word is its opcode byte followed by its operand half, masked (R39). -/
theorem and_usedBits_eq (w : Word) (i : Instr) :
    w &&& usedBits i = opField w ++ (w.extractLsb' 0 32 &&& (usedBits i).extractLsb' 0 32) := by
  have hmask : usedBits i = BitVec.allOnes 8 ++ (usedBits i).extractLsb' 0 32 := by cases i <;> rw [usedBits] <;> rfl
  have hword : opField w ++ w.extractLsb' 0 32 = w := BitVec.extractLsb'_append_extractLsb' (w := 8)
  conv_lhs => rw [hmask, ← hword]
  rw [BitVec.and_append, BitVec.and_allOnes]

/-- The operand half of formats M and R: its upper half is ignored, its lower half holds two bytes (R41, R43). -/
theorem operandHalf_and_two_bytes (w : Word) :
    w.extractLsb' 0 32 &&& 0x0000FFFF = 0#16 ++ w.extractLsb' 8 8 ++ w.extractLsb' 0 8 := by
  have hmask : (0x0000FFFF : BitVec 32) = 0#16 ++ BitVec.allOnes 8 ++ BitVec.allOnes 8 := rfl
  have hupper : w.extractLsb' 16 16 ++ w.extractLsb' 8 8 = w.extractLsb' 8 24 :=
    BitVec.extractLsb'_append_extractLsb'_eq_extractLsb' rfl
  have hhalf : w.extractLsb' 8 24 ++ w.extractLsb' 0 8 = w.extractLsb' 0 32 :=
    BitVec.extractLsb'_append_extractLsb'_eq_extractLsb' rfl
  rw [hmask, ← hhalf, ← hupper, BitVec.and_append, BitVec.and_append, BitVec.and_zero, BitVec.and_allOnes,
    BitVec.and_allOnes]

/-- The operand half of a command is the operand half of a word that holds its operands, the ignored bits cleared. -/
theorem encodeArg_of_writtenIn {i : Instr} {w : Word} (h : i.WrittenIn w) :
    encodeArg i = w.extractLsb' 0 32 &&& (usedBits i).extractLsb' 0 32 := by
  cases i with
  | begin => exact BitVec.and_zero.symm
  | setmode sel val =>
    obtain ⟨rfl, rfl⟩ := h
    rw [usedBits]
    exact (operandHalf_and_two_bytes w).symm
  | setfreq freq =>
    obtain rfl := h
    rw [usedBits, encodeArg, BitVec.ofInt_toInt]
    exact BitVec.and_allOnes.symm
  | reset => exact BitVec.and_zero.symm
  | clear => exact BitVec.and_zero.symm
  | awrite addr chan value =>
    obtain ⟨rfl, rfl, rfl⟩ := h
    have hhigh : w.extractLsb' 24 8 ++ w.extractLsb' 16 8 = w.extractLsb' 16 16 :=
      BitVec.extractLsb'_append_extractLsb'_eq_extractLsb' rfl
    have hhalf : w.extractLsb' 16 16 ++ w.extractLsb' 0 16 = w.extractLsb' 0 32 :=
      BitVec.extractLsb'_append_extractLsb'_eq_extractLsb' rfl
    rw [usedBits, encodeArg, BitVec.ofInt_toInt, BitVec.ofInt_toInt, hhigh, hhalf]
    exact BitVec.and_allOnes.symm
  | read addr reg =>
    obtain ⟨rfl, rfl⟩ := h
    rw [usedBits]
    exact (operandHalf_and_two_bytes w).symm

/-- Settles O2: the word and the command have the same opcode and the same operand half. -/
theorem encodeOfDecode : Obligations.EncodeOfDecode := by
  intro w i hw
  obtain ⟨hop, hargs⟩ := decode_eq_instr_iff.mp hw
  refine ⟨wellFormed_of_writtenIn hargs, ?_⟩
  rw [and_usedBits_eq, hop, ← encodeArg_of_writtenIn hargs]
  rfl

/-- Settles O5: the decoder is evaluated on each of the six words. -/
theorem workedWordsDecode : Obligations.WorkedWordsDecode := by
  unfold Obligations.WorkedWordsDecode
  decide

end Sys2Proof

/-! The encoding family, the payload bytes (O31, O32) and the idle cycle (O12). -/

namespace Sys2Proof.Machine

/-- Settles O12: the step is `idleCycle`, which drops the response and the word latched and keeps the rest. -/
theorem idleUnitDoesNothing : Obligations.IdleUnitDoesNothing := by
  intro s hready hhost
  have hbusy : s.busy = false := hready.2
  exact ⟨idleCycle s, step_of_ready_nil hready hhost, hbusy, rfl, rfl, rfl, rfl, rfl, rfl, rfl, rfl, hhost, rfl, rfl⟩

/-- The low byte of a 13-bit field (R48). -/
theorem lo8_eq_extract (n : Nat) : lo8 n = (BitVec.ofNat 13 n).extractLsb' 0 8 := by
  apply BitVec.eq_of_toNat_eq
  simp [lo8]

/-- The high byte of a field holds its five upper bits under three zeros (R48). -/
theorem hi8_eq_extract {n : Nat} (h : n ≤ 4096) : hi8 n = 0#3 ++ (BitVec.ofNat 13 n).extractLsb' 8 5 := by
  have hpart : (0#3 ++ (BitVec.ofNat 13 n).extractLsb' 8 5).toNat = n / 256 := by
    rw [BitVec.toNat_append]
    simp [Nat.shiftRight_eq_div_pow]
    omega
  have hbyte : (hi8 n).toNat = n / 256 := by
    simp [hi8]
    omega
  exact BitVec.eq_of_toNat_eq (hbyte.trans hpart.symm)

/-- Two fields packed, in the spec's bit ranges (R48). -/
theorem packFields_eq_extract {on off : Nat} (hon : on ≤ 4096) (hoff : off ≤ 4096) : packFields on off =
    [(BitVec.ofNat 13 on).extractLsb' 0 8, 0#3 ++ (BitVec.ofNat 13 on).extractLsb' 8 5,
     (BitVec.ofNat 13 off).extractLsb' 0 8, 0#3 ++ (BitVec.ofNat 13 off).extractLsb' 8 5] := by
  rw [packFields, lo8_eq_extract, lo8_eq_extract, hi8_eq_extract hon, hi8_eq_extract hoff]

/-- A clamped value between the two edge cases (R63). -/
theorem fields_of_inner {v : Nat} (h0 : v ≠ 0) (h1 : v < 4095) : fields v = (0, v) := by
  have hmax : v ≠ valueMax := h1.ne
  rw [fields, if_neg hmax, if_neg h0]

/-- The fields of a clamped value have 13 bits (R48, R63). -/
theorem fields_le {v : Nat} (h : v ≤ 4095) : (fields v).1 ≤ 4096 ∧ (fields v).2 ≤ 4096 := by
  rw [fields]
  split_ifs
  · decide
  · decide
  · exact ⟨Nat.zero_le _, by omega⟩

/-- Settles O31: the bytes are `packFields_eq_extract`, the order of the transaction is that of `regWrite`. -/
theorem fieldPacking : Obligations.FieldPacking := by
  refine ⟨fun on off hon hoff => packFields_eq_extract hon hoff, fun v hv => ?_⟩
  obtain ⟨hon, hoff⟩ := fields_le hv
  exact ⟨hon, hoff, fun a c => rfl⟩

theorem clampValue_le (value : Int) : clampValue value ≤ 4095 := by
  rw [clampValue_cases]
  split_ifs <;> omega

/-- Settles O32: the two edge cases are evaluated, every value between them is `payload_of_inner`. -/
theorem payloadShapes : Obligations.PayloadShapes := by
  refine ⟨by decide, by decide, fun v hlow hhigh => ?_, clampValue_le⟩
  have h0 : v ≠ 0 := by omega
  have h1 : v < 4095 := by omega
  have hduty : dutyPositions v = v := if_neg h1.ne
  exact ⟨fields_of_inner h0 h1, hduty, by omega, payload_of_inner h0 h1⟩

end Sys2Proof.Machine

/-! The encoding family, the assembler (O6, O7, O58). A line made of a mnemonic and operand texts without blanks,
commas or comments assembles to what `assembleParts` says of those texts (`assembleLine_operandsText`); the decimal text
of a number is such a text, and parsing it gives the number back (`parseNat_toDigits`). -/

namespace Sys2Proof.Machine

/-! ### What is accepted fits -/

theorem accept_eq_instr {o : Option Instr} {i : Instr} (h : accept o = .instr i) : i.wellFormed = true := by
  cases o with
  | none => cases h
  | some j =>
    rw [accept] at h
    split_ifs at h with hj
    cases h
    exact hj

/-- Every mnemonic with operands goes through `accept`; the others have nothing to fit (R50). -/
theorem assembleParts_wellFormed {mnemonic : List Char} {operands : List (List Char)} {i : Instr}
    (h : assembleParts mnemonic operands = .instr i) : i.wellFormed = true := by
  unfold assembleParts at h
  split at h
  case h_1 | h_2 | h_3 => cases h; rfl
  case h_9 => cases h
  all_goals exact accept_eq_instr h

/-- Settles O7: a line that is not blank is what `assembleParts` says of its parts. -/
theorem assembledCommandsFit : Obligations.AssembledCommandsFit := by
  intro line i h
  rw [assembleLine] at h
  split_ifs at h
  exact assembleParts_wellFormed h

/-- Settles O6: the assembler is evaluated on each of the six lines. -/
theorem workedLinesAssemble : Obligations.WorkedLinesAssemble := by
  unfold Obligations.WorkedLinesAssemble
  decide

/-! ### Cutting a line into its parts -/

/-- A mnemonic or an operand as it stands between the separators of R50: not empty, no blank, no comma, no comment. -/
structure IsField (cs : List Char) : Prop where
  ne_nil : cs ≠ []
  notBlank : ∀ c ∈ cs, isBlankChar c = false
  noComma : ',' ∉ cs
  noComment : ';' ∉ cs

/-- A text of characters of one class is a field, where no separator is of that class. -/
theorem isField_of_forall {p : Char → Bool} {cs : List Char}
    (hp : p ' ' = false ∧ p '\t' = false ∧ p ',' = false ∧ p ';' = false) (hne : cs ≠ [])
    (h : ∀ c ∈ cs, p c = true) : IsField cs := by
  obtain ⟨hspace, htab, hcomma, hcomment⟩ := hp
  have hother : ∀ {x : Char}, p x = false → ∀ c ∈ cs, c ≠ x := by
    rintro x hx c hc rfl
    exact Bool.false_ne_true (hx.symm.trans (h c hc))
  refine ⟨hne, fun c hc => ?_, fun hc => hother hcomma _ hc rfl, fun hc => hother hcomment _ hc rfl⟩
  simp [isBlankChar, hother hspace c hc, hother htab c hc]

/-- A mnemonic is a field (R50). -/
theorem isField_of_isUpper {cs : List Char} (hne : cs ≠ []) (h : cs.all Char.isUpper = true) : IsField cs :=
  isField_of_forall (by decide) hne (List.all_eq_true.mp h)

/-- The text of an operand list: a blank before each operand, a comma between two (R50). -/
def operandsText (op : List Char) (ops : List (List Char)) : List Char :=
  ' ' :: op ++ ops.flatMap (fun next => ',' :: ' ' :: next)

theorem trimLeft_eq_self {cs : List Char} (h : ∀ c ∈ cs.head?, isBlankChar c = false) : trimLeft cs = cs := by
  cases cs with
  | nil => rfl
  | cons c cs => exact List.dropWhile_cons_of_neg (by simp [h c rfl])

/-- A text that neither begins nor ends with a blank is trimmed already. -/
theorem trim_eq_self {cs : List Char} (hhead : ∀ c ∈ cs.head?, isBlankChar c = false)
    (hlast : ∀ c ∈ cs.getLast?, isBlankChar c = false) : trim cs = cs := by
  rw [trim, trimLeft_eq_self hhead, trimLeft_eq_self (by simpa using hlast), List.reverse_reverse]

theorem trim_blank (cs : List Char) : trim (' ' :: cs) = trim cs := rfl

theorem IsField.trim_eq {cs : List Char} (h : IsField cs) : trim cs = cs :=
  trim_eq_self (fun c hc => h.notBlank c (List.mem_of_mem_head? hc))
    (fun c hc => h.notBlank c (List.mem_of_mem_getLast? hc))

/-- A text that ends with a field does not end with a blank. -/
theorem IsField.getLast?_notBlank {cs : List Char} (h : IsField cs) (front : List Char) :
    ∀ c ∈ (front ++ cs).getLast?, isBlankChar c = false := by
  rw [List.getLast?_append_of_ne_nil _ h.ne_nil]
  exact fun c hc => h.notBlank c (List.mem_of_mem_getLast? hc)

theorem getLast?_operandsText_notBlank {op : List Char} {ops : List (List Char)} (hop : IsField op)
    (hops : ∀ o ∈ ops, IsField o) (front : List Char) :
    ∀ c ∈ (front ++ operandsText op ops).getLast?, isBlankChar c = false := by
  induction ops generalizing op front with
  | nil => simpa [operandsText] using hop.getLast?_notBlank (front ++ [' '])
  | cons next ops ih =>
    obtain ⟨hnext, hrest⟩ := List.forall_mem_cons.mp hops
    simpa [operandsText] using ih hnext hrest (front ++ ' ' :: op ++ [','])

theorem comment_notMem_operandsText {op : List Char} {ops : List (List Char)} (hop : IsField op)
    (hops : ∀ o ∈ ops, IsField o) : ';' ∉ operandsText op ops := by
  have hrest : ∀ o ∈ ops, ';' ∉ o := fun o ho => (hops o ho).noComment
  simpa [operandsText, hop.noComment] using hrest

theorem splitCommas_ne_nil (cs : List Char) : splitCommas cs ≠ [] := by
  cases cs with
  | nil => simp [splitCommas]
  | cons c cs =>
    unfold splitCommas
    split
    · simp
    · split_ifs <;> simp

/-- A comma ends an operand. -/
theorem splitCommas_comma (cs : List Char) : splitCommas (',' :: cs) = [] :: splitCommas cs := by
  rw [splitCommas]
  cases h : splitCommas cs with
  | nil => exact absurd h (splitCommas_ne_nil cs)
  | cons w ws => rfl

/-- Any other character belongs to the first operand. -/
theorem splitCommas_cons {c : Char} (h : c ≠ ',') {cs w : List Char} {ws : List (List Char)}
    (hcs : splitCommas cs = w :: ws) : splitCommas (c :: cs) = (c :: w) :: ws := by
  simp [splitCommas, hcs, h]

theorem splitCommas_append {op cs w : List Char} {ws : List (List Char)} (h : ',' ∉ op)
    (hcs : splitCommas cs = w :: ws) : splitCommas (op ++ cs) = (op ++ w) :: ws := by
  induction op with
  | nil => exact hcs
  | cons c op ih => exact splitCommas_cons (Ne.symm (List.ne_of_not_mem_cons h)) (ih (List.not_mem_of_not_mem_cons h))

/-- The operands are found between the commas, each with the blank before it. -/
theorem splitCommas_operandsText {op : List Char} {ops : List (List Char)} (hop : IsField op)
    (hops : ∀ o ∈ ops, IsField o) :
    splitCommas (operandsText op ops) = (op :: ops).map (fun o => ' ' :: o) := by
  have hblank : ',' ∉ ' ' :: op := by simpa using hop.noComma
  induction ops generalizing op with
  | nil => simpa [operandsText] using splitCommas_append hblank (rfl : splitCommas [] = [[]])
  | cons next ops ih =>
    obtain ⟨hnext, hrest⟩ := List.forall_mem_cons.mp hops
    have htail : splitCommas (',' :: operandsText next ops) = [] :: (next :: ops).map (fun o => ' ' :: o) := by
      rw [splitCommas_comma, ih hnext hrest (by simpa using hnext.noComma)]
    simpa [operandsText] using splitCommas_append hblank htail

/-- A text that holds a character other than a blank is not empty once trimmed. -/
theorem trim_ne_nil {cs : List Char} {c : Char} (hc : c ∈ cs) (h : isBlankChar c = false) : trim cs ≠ [] := by
  intro hempty
  have hkept : ∀ x ∈ cs.dropWhile isBlankChar, isBlankChar x = true := by
    simpa [trim, trimLeft] using hempty
  have hblank : isBlankChar c = true := by
    rw [← List.takeWhile_append_dropWhile (p := isBlankChar) (l := cs), List.mem_append] at hc
    exact hc.elim List.mem_takeWhile_imp (hkept c)
  exact Bool.false_ne_true (h.symm.trans hblank)

theorem operandTexts_operandsText {op : List Char} {ops : List (List Char)} (hop : IsField op)
    (hops : ∀ o ∈ ops, IsField o) : operandTexts (operandsText op ops) = op :: ops := by
  have hne : ¬ (trim (operandsText op ops)).isEmpty = true := by
    obtain ⟨c, hc⟩ := List.exists_mem_of_ne_nil op hop.ne_nil
    have hmem : c ∈ operandsText op ops := by simp [operandsText, hc]
    simpa using trim_ne_nil hmem (hop.notBlank c hc)
  have htrim : ∀ o ∈ op :: ops, trim (' ' :: o) = o := fun o ho =>
    (trim_blank o).trans (List.forall_mem_cons.mpr ⟨hop, hops⟩ o ho).trim_eq
  rw [operandTexts, if_neg hne, splitCommas_operandsText hop hops, List.map_map]
  exact (List.map_congr_left htrim).trans (List.map_id' _)

theorem splitMnemonic_append {mnemonic : List Char} (h : IsField mnemonic) (rest : List Char) :
    splitMnemonic (mnemonic ++ ' ' :: rest) = (mnemonic, ' ' :: rest) := by
  have hall : ∀ c ∈ mnemonic, (!isBlankChar c) = true := by simpa using h.notBlank
  rw [splitMnemonic, List.takeWhile_append_of_pos hall, List.dropWhile_append_of_pos hall]
  simp [isBlankChar]

/-- A line of a mnemonic and its operands is what `assembleParts` says of them (R50). -/
theorem assembleLine_operandsText {mnemonic op : List Char} {ops : List (List Char)} (hm : IsField mnemonic)
    (hop : IsField op) (hops : ∀ o ∈ ops, IsField o) :
    assembleLine (mnemonic ++ operandsText op ops) = assembleParts mnemonic (op :: ops) := by
  have hcomment : dropComment (mnemonic ++ operandsText op ops) = mnemonic ++ operandsText op ops := by
    refine List.takeWhile_eq_self_iff.mpr fun c hc => bne_iff_ne.mpr ?_
    rintro rfl
    exact (List.mem_append.mp hc).elim hm.noComment (comment_notMem_operandsText hop hops)
  have htrim : trim (mnemonic ++ operandsText op ops) = mnemonic ++ operandsText op ops := by
    refine trim_eq_self (fun c hc => hm.notBlank c ?_) (getLast?_operandsText_notBlank hop hops mnemonic)
    rw [List.head?_append_of_ne_nil _ hm.ne_nil] at hc
    exact List.mem_of_mem_head? hc
  have hne : ¬ (mnemonic ++ operandsText op ops).isEmpty = true := by simp [hm.ne_nil]
  have hsplit : splitMnemonic (mnemonic ++ operandsText op ops) = (mnemonic, operandsText op ops) :=
    splitMnemonic_append hm _
  rw [assembleLine, hcomment, htrim, if_neg hne, hsplit, operandTexts_operandsText hop hops]

/-! ### Decimal numbers -/

theorem digitValue_of_isDigit {c : Char} (h : c.isDigit = true) :
    digitValue c = some (c.toNat - '0'.toNat) ∧ c.toNat - '0'.toNat < 10 := by
  have hrange : '0' ≤ c ∧ c ≤ '9' := by
    rw [Char.isDigit, Bool.and_eq_true, decide_eq_true_eq, decide_eq_true_eq] at h
    exact h
  refine ⟨if_pos hrange, ?_⟩
  have hle : c.toNat ≤ '9'.toNat := hrange.2
  have hnine : '9'.toNat = 57 := rfl
  have hzero : '0'.toNat = 48 := rfl
  omega

/-- On decimal digits the parser computes the library's value of a digit list. -/
theorem parseDigits_eq_ofDigitChars {cs : List Char} (h : ∀ c ∈ cs, c.isDigit = true) (acc : Nat) :
    parseDigits 10 acc cs = some (Nat.ofDigitChars 10 cs acc) := by
  induction cs generalizing acc with
  | nil => rfl
  | cons c cs ih =>
    obtain ⟨hc, hcs⟩ := List.forall_mem_cons.mp h
    obtain ⟨hvalue, hlt⟩ := digitValue_of_isDigit hc
    simp only [parseDigits, hvalue, if_pos hlt, ih hcs, Nat.ofDigitChars_cons]

/-- The characters of a decimal text (R50). -/
theorem isDigit_of_mem_decimal {n : Nat} : ∀ c ∈ Nat.toDigits 10 n, c.isDigit = true :=
  fun _ hc => Nat.isDigit_of_mem_toDigits (by decide) (by decide) hc

theorem parseDigits_toDigits (n : Nat) : parseDigits 10 0 (Nat.toDigits 10 n) = some n := by
  rw [parseDigits_eq_ofDigitChars isDigit_of_mem_decimal, Nat.ofDigitChars_ten_toDigits]

/-- A text without an `x` is decimal (R50). -/
theorem parseNat_of_notMem_x {cs : List Char} (hne : cs ≠ []) (h : 'x' ∉ cs) : parseNat cs = parseDigits 10 0 cs := by
  unfold parseNat
  split
  · exact absurd rfl hne
  · simp at h
  · simp at h
  · rfl

theorem notMem_decimal {n : Nat} {c : Char} (h : c.isDigit = false) : c ∉ Nat.toDigits 10 n := fun hc =>
  Bool.false_ne_true (h.symm.trans (isDigit_of_mem_decimal c hc))

/-- The decimal text of a number is read back as the number (R50). -/
theorem parseNat_toDigits (n : Nat) : parseNat (Nat.toDigits 10 n) = some n := by
  rw [parseNat_of_notMem_x Nat.toDigits_ne_nil (notMem_decimal rfl), parseDigits_toDigits]

theorem parseByte_toDigits (n : Nat) :
    parseByte (Nat.toDigits 10 n) = if n ≤ 255 then some (BitVec.ofNat 8 n) else none := by
  rw [parseByte, parseNat_toDigits]

/-! ### The operands of a line -/

theorem isField_toDigits (n : Nat) : IsField (Nat.toDigits 10 n) :=
  isField_of_forall (by decide) Nat.toDigits_ne_nil isDigit_of_mem_decimal

/-- A sign, or any other character but a separator, may stand before a field. -/
theorem IsField.cons {c : Char} {cs : List Char} (h : IsField cs) (hblank : isBlankChar c = false) (hcomma : ',' ≠ c)
    (hcomment : ';' ≠ c) : IsField (c :: cs) where
  ne_nil := List.cons_ne_nil c cs
  notBlank := List.forall_mem_cons.mpr ⟨hblank, h.notBlank⟩
  noComma := List.not_mem_cons_of_ne_of_not_mem hcomma h.noComma
  noComment := List.not_mem_cons_of_ne_of_not_mem hcomment h.noComment

/-- The text of a signed integer: digits, after a `-` where it is negative. -/
theorem toList_toString_int (z : Int) :
    (toString z).toList = if 0 ≤ z then Nat.toDigits 10 z.toNat else '-' :: Nat.toDigits 10 (-z).toNat := by
  have hz : toString z = if 0 ≤ z then z.toNat.repr else "-" ++ (-z).toNat.repr := Int.repr_eq_if
  rw [hz]
  split_ifs
  · exact Nat.toList_repr
  · rw [String.toList_append, Nat.toList_repr]; rfl

theorem isField_toString_int (z : Int) : IsField (toString z).toList := by
  rw [toList_toString_int]
  split_ifs
  · exact isField_toDigits _
  · exact (isField_toDigits _).cons rfl (by decide) (by decide)

/-- A text without a `-` is unsigned (R50). -/
theorem parseInt_of_notMem_minus {cs : List Char} (h : '-' ∉ cs) :
    parseInt cs = (parseNat cs).map (fun n : Nat => (n : Int)) := by
  unfold parseInt
  split
  · simp at h
  · rfl

/-- The text of an integer is read back as the integer (R50). -/
theorem parseInt_toString (z : Int) : parseInt (toString z).toList = some z := by
  rw [toList_toString_int]
  split_ifs with hz
  · rw [parseInt_of_notMem_minus (notMem_decimal rfl), parseNat_toDigits, Option.map_some, Int.toNat_of_nonneg hz]
  · have hneg : -((-z).toNat : Int) = z := by omega
    rw [parseInt, parseNat_toDigits, Option.map_some, hneg]

/-- A text without a point is a whole number (R50). -/
theorem parseDecimal_toDigits (n : Nat) : parseDecimal (Nat.toDigits 10 n) = some (n, 0) := by
  have hall : ∀ c ∈ Nat.toDigits 10 n, (c != '.') = true := fun c hc =>
    bne_iff_ne.mpr fun h => notMem_decimal rfl (h ▸ hc)
  have hne : ¬ (Nat.toDigits 10 n).isEmpty = true := by simp [Nat.toDigits_ne_nil]
  have hwhole : (Nat.toDigits 10 n).takeWhile (fun c => c != '.') = Nat.toDigits 10 n :=
    List.takeWhile_eq_self_iff.mpr hall
  have hrest : (Nat.toDigits 10 n).dropWhile (fun c => c != '.') = [] := List.dropWhile_eq_nil_iff.mpr hall
  simp only [parseDecimal, hwhole, hrest, if_neg hne, parseDigits_toDigits, Option.map_some]

/-- A whole number of hertz needs no rounding (R40, R50). -/
theorem scaleHz_whole (n : Nat) : scaleHz n 0 = some (n * 65536) := by
  simp [scaleHz, rawPerHz, Nat.mod_one]

theorem parseFreq_of_notMem_marks {cs : List Char} (hraw : '#' ∉ cs) (hminus : '-' ∉ cs) :
    parseFreq cs = (parseDecimal cs).bind (fun d => (scaleHz d.1 d.2).map (fun n : Nat => (n : Int))) := by
  unfold parseFreq
  split
  · simp at hraw
  · simp at hminus
  · rfl

/-- A whole number of hertz is read as 65536 times the number (R40, R50). -/
theorem parseFreq_toString (hz : Int) : parseFreq (toString hz).toList = some (65536 * hz) := by
  rw [toList_toString_int]
  split_ifs with h
  · have hraw : ((hz.toNat * 65536 : Nat) : Int) = 65536 * hz := by omega
    rw [parseFreq_of_notMem_marks (notMem_decimal rfl) (notMem_decimal rfl), parseDecimal_toDigits, Option.bind_some,
      scaleHz_whole, Option.map_some, hraw]
  · have hraw : -(((-hz).toNat * 65536 : Nat) : Int) = 65536 * hz := by omega
    rw [parseFreq, parseDecimal_toDigits, Option.bind_some, scaleHz_whole, Option.map_some, hraw]

theorem parseFreq_raw (n : Nat) :
    parseFreq ('#' :: Nat.toDigits 10 n) = if n < 2 ^ 32 then some (BitVec.ofNat 32 n).toInt else none := by
  rw [parseFreq, parseNat_toDigits]

/-! ### Lines with decimal operands -/

/-- Two byte operands are kept where both are bytes (R50). -/
theorem accept_two_bytes {f : Byte → Byte → Instr} (hf : ∀ x y, (f x y).wellFormed = true) (a b : Nat) :
    accept ((parseByte (Nat.toDigits 10 a)).bind (fun x => (parseByte (Nat.toDigits 10 b)).map (fun y => f x y))) =
      if a ≤ 255 ∧ b ≤ 255 then .instr (f (BitVec.ofNat 8 a) (BitVec.ofNat 8 b)) else .rejected := by
  rw [parseByte_toDigits, parseByte_toDigits]
  by_cases ha : a ≤ 255
  · by_cases hb : b ≤ 255
    · simp [ha, hb, accept, hf]
    · simp [ha, hb, accept]
  · simp [ha, accept]

theorem accept_setfreq (freq : Int) : accept (some (.setfreq freq)) =
    if -2147483648 ≤ freq ∧ freq ≤ 2147483647 then .instr (.setfreq freq) else .rejected :=
  if_congr freqFits_iff rfl rfl

theorem accept_awrite (addr : Byte) (chan value : Int) : accept (some (.awrite addr chan value)) =
    if -128 ≤ chan ∧ chan ≤ 127 ∧ -32768 ≤ value ∧ value ≤ 32767 then .instr (.awrite addr chan value)
    else .rejected :=
  if_congr (wellFormed_awrite_iff.trans and_assoc) rfl rfl

theorem assembleLine_setmode (sel val : Nat) :
    assembleLine ("SETMODE " ++ toString sel ++ ", " ++ toString val).toList =
      if sel ≤ 255 ∧ val ≤ 255 then .instr (.setmode (BitVec.ofNat 8 sel) (BitVec.ofNat 8 val)) else .rejected := by
  have hline : ("SETMODE " ++ toString sel ++ ", " ++ toString val).toList =
      ['S', 'E', 'T', 'M', 'O', 'D', 'E'] ++ operandsText (Nat.toDigits 10 sel) [Nat.toDigits 10 val] := by
    simp [operandsText]
  rw [hline, assembleLine_operandsText (isField_of_isUpper (by decide) (by decide)) (isField_toDigits sel)
    (by simpa using isField_toDigits val)]
  exact accept_two_bytes (f := .setmode) (fun _ _ => rfl) sel val

theorem assembleLine_read (addr reg : Nat) :
    assembleLine ("READ " ++ toString addr ++ ", " ++ toString reg).toList =
      if addr ≤ 255 ∧ reg ≤ 255 then .instr (.read (BitVec.ofNat 8 addr) (BitVec.ofNat 8 reg)) else .rejected := by
  have hline : ("READ " ++ toString addr ++ ", " ++ toString reg).toList =
      ['R', 'E', 'A', 'D'] ++ operandsText (Nat.toDigits 10 addr) [Nat.toDigits 10 reg] := by
    simp [operandsText]
  rw [hline, assembleLine_operandsText (isField_of_isUpper (by decide) (by decide)) (isField_toDigits addr)
    (by simpa using isField_toDigits reg)]
  exact accept_two_bytes (f := .read) (fun _ _ => rfl) addr reg

theorem assembleLine_setfreq (hz : Int) :
    assembleLine ("SETFREQ " ++ toString hz).toList =
      if -32768 ≤ hz ∧ hz ≤ 32767 then .instr (.setfreq (65536 * hz)) else .rejected := by
  have hline : ("SETFREQ " ++ toString hz).toList =
      ['S', 'E', 'T', 'F', 'R', 'E', 'Q'] ++ operandsText (toString hz).toList [] := by
    simp [operandsText]
  have hrange : (-2147483648 ≤ 65536 * hz ∧ 65536 * hz ≤ 2147483647) ↔ -32768 ≤ hz ∧ hz ≤ 32767 := by omega
  rw [hline, assembleLine_operandsText (isField_of_isUpper (by decide) (by decide)) (isField_toString_int hz) (by simp),
    assembleParts, parseFreq_toString, Option.map_some, accept_setfreq]
  exact if_congr hrange rfl rfl

theorem assembleLine_setfreq_raw (raw : Nat) :
    assembleLine ("SETFREQ #" ++ toString raw).toList =
      if raw ≤ 0xFFFFFFFF then .instr (.setfreq (BitVec.ofNat 32 raw).toInt) else .rejected := by
  have hline : ("SETFREQ #" ++ toString raw).toList =
      ['S', 'E', 'T', 'F', 'R', 'E', 'Q'] ++ operandsText ('#' :: Nat.toDigits 10 raw) [] := by
    simp [operandsText]
  have hfield : IsField ('#' :: Nat.toDigits 10 raw) :=
    (isField_toDigits raw).cons rfl (by decide) (by decide)
  have hfits : (Instr.setfreq (BitVec.ofNat 32 raw).toInt).wellFormed = true := freqFits_toInt _
  rw [hline, assembleLine_operandsText (isField_of_isUpper (by decide) (by decide)) hfield (by simp),
    assembleParts, parseFreq_raw]
  by_cases hraw : raw ≤ 0xFFFFFFFF
  · rw [if_pos hraw, if_pos (by omega : raw < 2 ^ 32), Option.map_some, accept, if_pos hfits]
  · rw [if_neg hraw, if_neg (by omega : ¬ raw < 2 ^ 32)]
    rfl

theorem assembleLine_awrite (chan value : Int) (addr : Nat) :
    assembleLine ("AWRITE " ++ toString chan ++ ", " ++ toString value ++ ", " ++ toString addr).toList =
      if -128 ≤ chan ∧ chan ≤ 127 ∧ -32768 ≤ value ∧ value ≤ 32767 ∧ addr ≤ 255 then
        .instr (.awrite (BitVec.ofNat 8 addr) chan value) else .rejected := by
  have hline : ("AWRITE " ++ toString chan ++ ", " ++ toString value ++ ", " ++ toString addr).toList =
      ['A', 'W', 'R', 'I', 'T', 'E'] ++
        operandsText (toString chan).toList [(toString value).toList, Nat.toDigits 10 addr] := by
    simp [operandsText]
  rw [hline, assembleLine_operandsText (isField_of_isUpper (by decide) (by decide)) (isField_toString_int chan)
    (by simpa using ⟨isField_toString_int value, isField_toDigits addr⟩), assembleParts, parseInt_toString,
    parseInt_toString, parseByte_toDigits, Option.bind_some, Option.bind_some]
  by_cases haddr : addr ≤ 255
  · simp [haddr, accept_awrite]
  · simp [haddr, accept]

theorem assembleLine_awrite_default (chan value : Int) :
    assembleLine ("AWRITE " ++ toString chan ++ ", " ++ toString value).toList =
      if -128 ≤ chan ∧ chan ≤ 127 ∧ -32768 ≤ value ∧ value ≤ 32767 then .instr (.awrite 0x40 chan value)
      else .rejected := by
  have hline : ("AWRITE " ++ toString chan ++ ", " ++ toString value).toList =
      ['A', 'W', 'R', 'I', 'T', 'E'] ++ operandsText (toString chan).toList [(toString value).toList] := by
    simp [operandsText]
  rw [hline, assembleLine_operandsText (isField_of_isUpper (by decide) (by decide)) (isField_toString_int chan)
    (by simpa using isField_toString_int value), assembleParts, parseInt_toString, parseInt_toString]
  exact accept_awrite addrDefault chan value

/-- Settles O58: each line is cut into its operand texts, which are read back as the operands. -/
theorem assemblerKeepsOperands : Obligations.AssemblerKeepsOperands := fun chan value hz sel val addr reg raw =>
  ⟨assembleLine_setmode sel val, assembleLine_setfreq hz, assembleLine_setfreq_raw raw,
    assembleLine_awrite chan value addr, assembleLine_awrite_default chan value, assembleLine_read addr reg⟩

end Sys2Proof.Machine

/-! The prescale family (40_prescale.md): the prescale and its range (O35 to O37), the frequency classes (O34), and what
`SETFREQ` does in each (O19 to O21). -/

namespace Sys2Proof.Machine

/-! ### The prescale -/

/-- The prescale with the constants of R4 and R55 put in. -/
theorem prescale_eq (fc : Nat) : prescale fc = (800000000 + fc) / (2 * fc) := rfl

/-- The prescale falls as the effective frequency rises (R56). -/
theorem prescale_antitone {f g : Nat} (hf : 0 < f) (h : f ≤ g) : prescale g ≤ prescale f := by
  rw [prescale_eq f, Nat.le_div_iff_mul_le (by omega)]
  have hg : prescale g * (2 * g) ≤ 800000000 + g := Nat.div_mul_le_self _ _
  cases hp : prescale g with
  | zero => omega
  | succ q =>
    have hmul : (2 * q + 1) * f ≤ (2 * q + 1) * g := Nat.mul_le_mul_left _ h
    rw [hp] at hg
    linarith

theorem clampFreq_mono {f g : Int} (h : f ≤ g) : clampFreq f ≤ clampFreq g := by
  rw [clampFreq_cases, clampFreq_cases]; split_ifs <;> omega

theorem clampFreq_of_mem {n : Nat} (hlow : 1572864 ≤ n) (hhigh : n ≤ 100007936) : clampFreq n = n := by
  rw [clampFreq_cases]; split_ifs <;> omega

/-- The prescale of an effective frequency lies between the two end values (R56). -/
theorem prescale_clampFreq_range (freq : Int) :
    4 ≤ prescale (clampFreq freq) ∧ prescale (clampFreq freq) ≤ 254 := by
  obtain ⟨hlow, hhigh⟩ := clampFreq_range freq
  exact ⟨prescale_antitone (by omega) hhigh, prescale_antitone (by decide) hlow⟩

theorem toNat_ofNat_prescale (freq : Int) :
    (BitVec.ofNat 8 (prescale (clampFreq freq))).toNat = prescale (clampFreq freq) := by
  have hrange := prescale_clampFreq_range freq
  rw [BitVec.toNat_ofNat, Nat.mod_eq_of_lt (by omega)]

/-- Settles O36: the prescale is antitone and the clamp monotone, so the end values bound it. -/
theorem prescaleRange : Obligations.PrescaleRange :=
  ⟨fun freq _ => ⟨(prescale_clampFreq_range freq).1, (prescale_clampFreq_range freq).2, toNat_ofNat_prescale freq⟩,
    fun f _ _ h => prescale_antitone (by have := clampFreq_range f; omega) (clampFreq_mono h), rfl, rfl⟩

/-- Settles O35: both sides are the integer part of `(800000000 + Fc) / (2 * Fc)`. -/
theorem prescaleRoundsExactQuotient : Obligations.PrescaleRoundsExactQuotient := by
  intro freq _
  have hpos : (0 : ℚ) < clampFreq freq := by exact_mod_cast (clampFreq_range freq).1.trans_lt' (by decide)
  have hquotient : (25000000 : ℚ) / (4096 * ((clampFreq freq : ℚ) / 65536)) + 1 / 2 =
      ((800000000 + clampFreq freq : ℕ) : ℚ) / ((2 * clampFreq freq : ℕ) : ℚ) := by
    push_cast
    field_simp
    ring
  rw [hquotient, Rat.floor_natCast_div_natCast, prescale_eq, Int.natCast_div]

/-- The effective frequency `400000000 / p` rounded down has the prescale `p` (R54, R55). -/
theorem prescale_quotient {p : Nat} (hp : 0 < p) (hp' : p ≤ 254) : prescale (400000000 / p) = p := by
  have hdiv : p * (400000000 / p) + 400000000 % p = 400000000 := Nat.div_add_mod _ _
  have hmod : 400000000 % p < p := Nat.mod_lt _ hp
  have hlarge : 2 * 254 < 400000000 / p := (Nat.le_div_iff_mul_le hp).mpr (by omega)
  rw [prescale_eq]
  generalize 400000000 / p = fc at *
  have hdouble : p * (2 * fc) = 2 * (p * fc) := Nat.mul_left_comm _ _ _
  refine Nat.div_eq_of_lt_le ?_ ?_
  · omega
  · rw [Nat.add_mul, one_mul]
    omega

/-- Settles O37: the frequency is the quotient of `prescale_quotient`, which the clamp leaves alone. -/
theorem everyPrescaleReached : Obligations.EveryPrescaleReached := by
  intro p hlow hhigh
  have hmin : 1572864 ≤ 400000000 / p := (Nat.le_div_iff_mul_le (by omega)).mpr (by omega)
  have hmax : 400000000 / p ≤ 100007936 := Nat.div_le_of_le_mul (by omega)
  refine ⟨(400000000 / p : ℕ), by omega, freqFits_iff.mpr (by omega), ?_⟩
  rw [clampFreq_of_mem hmin hmax]
  exact prescale_quotient (by omega) hhigh

/-! ### The frequency classes -/

theorem freqClass_eq_blank_iff {freq : Int} : freqClass freq = .blank ↔ freq ≤ 0 := by
  rw [freqClass_cases]; split_ifs <;> simp <;> omega

theorem freqClass_eq_low_iff {freq : Int} : freqClass freq = .low ↔ 0 < freq ∧ freq < 24 * 65536 := by
  rw [freqClass_cases]; split_ifs <;> simp <;> omega

theorem freqClass_eq_inRange_iff {freq : Int} :
    freqClass freq = .inRange ↔ 24 * 65536 ≤ freq ∧ freq ≤ 1526 * 65536 := by
  rw [freqClass_cases]; split_ifs <;> simp <;> omega

theorem freqClass_eq_high_iff {freq : Int} : freqClass freq = .high ↔ 1526 * 65536 < freq := by
  rw [freqClass_cases]; split_ifs <;> simp <;> omega

/-- A frequency in hertz is at least a whole number exactly when its raw operand is (R40, R53). -/
theorem le_hertz_iff (n freq : Int) : (n : ℚ) ≤ (freq : ℚ) / 65536 ↔ n * 65536 ≤ freq := by
  rw [le_div_iff₀ (by norm_num)]; exact_mod_cast Iff.rfl

theorem hertz_le_iff (n freq : Int) : (freq : ℚ) / 65536 ≤ n ↔ freq ≤ n * 65536 := by
  rw [div_le_iff₀ (by norm_num)]; exact_mod_cast Iff.rfl

theorem lt_hertz_iff (n freq : Int) : (n : ℚ) < (freq : ℚ) / 65536 ↔ n * 65536 < freq :=
  lt_iff_lt_of_le_iff_le (hertz_le_iff n freq)

theorem hertz_lt_iff (n freq : Int) : (freq : ℚ) / 65536 < n ↔ freq < n * 65536 :=
  lt_iff_lt_of_le_iff_le (le_hertz_iff n freq)

theorem clampFreq_eq_max_min (freq : Int) : (clampFreq freq : Int) = max (24 * 65536) (min (1526 * 65536) freq) := by
  rw [clampFreq_cases]; split_ifs <;> omega

/-- In hertz the effective frequency is the clamp to 24..1526 (R53). -/
theorem clampFreq_hertz (freq : Int) :
    (clampFreq freq : ℚ) / 65536 = max 24 (min 1526 ((freq : ℚ) / 65536)) := by
  have hraw : (clampFreq freq : ℚ) = max (24 * 65536) (min (1526 * 65536) (freq : ℚ)) := by
    exact_mod_cast clampFreq_eq_max_min freq
  rw [hraw, ← max_div_div_right (by norm_num), ← min_div_div_right (by norm_num)]
  norm_num

/-! ### `SETFREQ` -/

/-- At 0 or below `SETFREQ` has the plan of `CLEAR` (R59). -/
theorem exec_setfreq_of_nonpos {freq : Int} (h : freq ≤ 0) (s : State) : exec (.setfreq freq) s = exec .clear s := by
  rw [exec_eq_runPlan, exec_eq_runPlan, planOf, planOf, setfreqPlan_of_nonpos h]

/-- A positive `SETFREQ` depends on its operand only through the effective frequency (R53, R58). -/
theorem exec_setfreq_congr {f g : Int} (hf : 0 < f) (hg : 0 < g) (h : clampFreq f = clampFreq g) (s : State) :
    exec (.setfreq f) s = exec (.setfreq g) s := by
  rw [exec_eq_runPlan, exec_eq_runPlan, planOf, planOf, setfreqPlan_of_pos hf, setfreqPlan_of_pos hg, h]

/-- Settles O34: the classes are intervals of the raw operand, and the clamp is constant on `low` and on `high`. -/
theorem frequencyClasses : Obligations.FrequencyClasses := by
  intro s freq
  have hlow (h : freqClass freq = .low) : exec (.setfreq freq) s = exec (.setfreq (24 * 65536)) s := by
    obtain ⟨hpos, hlt⟩ := freqClass_eq_low_iff.mp h
    refine exec_setfreq_congr hpos (by decide) ?_ s
    have := clampFreq_eq_max_min freq
    have := clampFreq_eq_max_min (24 * 65536)
    omega
  have hhigh (h : freqClass freq = .high) : exec (.setfreq freq) s = exec (.setfreq (1526 * 65536)) s := by
    have hgt := freqClass_eq_high_iff.mp h
    refine exec_setfreq_congr (by omega) (by decide) ?_ s
    have := clampFreq_eq_max_min freq
    have := clampFreq_eq_max_min (1526 * 65536)
    omega
  refine ⟨?_, ?_, ?_, ?_, freqClass_eq_blank_iff, freqClass_eq_low_iff, freqClass_eq_high_iff,
    fun _ => ⟨clampFreq_hertz freq, clampFreq_eq_max_min freq⟩,
    fun h => exec_setfreq_of_nonpos (freqClass_eq_blank_iff.mp h) s, hhigh, hlow⟩
  · rw [freqClass_eq_blank_iff]
    exact_mod_cast (hertz_le_iff 0 freq).symm
  · rw [freqClass_eq_low_iff]
    exact_mod_cast (and_congr (lt_hertz_iff 0 freq) (hertz_lt_iff 24 freq)).symm
  · rw [freqClass_eq_inRange_iff]
    exact_mod_cast (and_congr (le_hertz_iff 24 freq) (hertz_le_iff 1526 freq)).symm
  · rw [freqClass_eq_high_iff]
    exact_mod_cast (lt_hertz_iff 1526 freq).symm

/-- The sleep/wake sequence is the event list of R57, whatever stage it wakes into. -/
theorem eventsOf_freqProgram (fc : Nat) (st : Stage) (b : Byte) :
    eventsOf (freqProgram fc st) b = programEvents (BitVec.ofNat 8 (prescale fc)) := rfl

theorem busOps_freqProgram (fc : Nat) (st : Stage) : busOps (freqProgram fc st) = 12 := by
  simp [freqProgram, regWrite, regWriteThenStage, regWriteEnding, plain, BusOp.onBus]

/-- Settles O19: the plan of a positive frequency completes, and its last stage write is the entry stage. -/
theorem setfreqProgramsPrescale : Obligations.SetfreqProgramsPrescale := by
  intro s freq hpos hacc
  refine ⟨_, exec_eq_runPlan _ s, ?_⟩
  rw [planOf, setfreqPlan_of_pos hpos, ← eventsOf_freqProgram _ s.stage 0]
  exact runPlan_completes (okPlan (freqProgram _ s.stage)) s 0 (busOps_freqProgram _ _ ▸ hacc) rfl rfl rfl

theorem eventsOf_clearChannel (c : Nat) (b : Byte) : eventsOf (clearChannel c) b = clearEvents c := rfl

theorem eventsOf_clearPlan (b : Byte) : eventsOf clearPlan.ops b = clearAllEvents :=
  List.map_flatMap.trans (List.flatMap_congr fun c _ => eventsOf_clearChannel c b)

/-- `CLEAR` over a transport that accepts its 112 events (R73). -/
theorem runPlan_clearPlan_completes {s : State} (h : s.accepts 112) :
    Completes s (runPlan clearPlan s) clearAllEvents s.stage .ok 0 ∧ ReadsNothing s (runPlan clearPlan s) :=
  eventsOf_clearPlan 0 ▸ runPlan_completes clearPlan s 0 h rfl rfl rfl

/-- Settles O21: it is `CLEAR`, which completes. -/
theorem blankingClearsAllChannels : Obligations.BlankingClearsAllChannels := fun s _ hfreq hacc =>
  ⟨_, (exec_setfreq_of_nonpos hfreq s).trans (exec_eq_runPlan .clear s), runPlan_clearPlan_completes hacc⟩

theorem wait_notMem_clearAllEvents (us : Nat) : .wait us ∉ clearAllEvents := by
  simp [clearAllEvents, clearEvents]

theorem chBase_ne_mode1_prescale : ∀ c < 16, chBase c ≠ 0x00 ∧ chBase c ≠ 0xFE := by decide

/-- Settles O20: the plan is that of `CLEAR`, whose transactions are the sixteen channel writes. -/
theorem nonPositiveFrequencyBlanks : Obligations.NonPositiveFrequencyBlanks := by
  intro s freq hfreq
  refine ⟨exec_setfreq_of_nonpos hfreq s, fun hacc => ?_⟩
  obtain ⟨t, ht, hcompletes, -⟩ := blankingClearsAllChannels s freq hfreq hacc
  refine ⟨t, clearAllEvents, ht, hcompletes.trace, hcompletes.stage, wait_notMem_clearAllEvents, ?_⟩
  rw [← eventsOf_clearPlan 0, regWrites_clear]
  refine ⟨by rw [List.length_map, List.length_range], fun w hw => ?_⟩
  obtain ⟨c, hc, rfl⟩ := List.mem_map.mp hw
  exact chBase_ne_mode1_prescale c (List.mem_range.mp hc)

end Sys2Proof.Machine

/-! The prescale family, the bracketing of prescale writes (O56). An occurrence of a prescale write lies inside one
command's events, since those begin outside every transaction; and it shows as a write transaction of that command. -/

namespace Sys2Proof.Machine

/-! ### Where a write can occur in a trace -/

/-- An event that a one-byte write transaction has after its `Begin` (R26). -/
def Event.insideWrite : Event → Bool
  | .write _ => true
  | .endTx => true
  | .setClock _ => false
  | .beginTx _ => false
  | .read _ => false
  | .wait _ => false

/-- The events cannot go on with a write transaction begun before them. -/
def startsOutside (es : List Event) : Prop := ∀ e ∈ es.head?, e.insideWrite = false

/-- Every event of a one-byte write but the first is inside it (R26). -/
theorem insideWrite_of_write_eq {a r d : Byte} {e e' : Event} {mid tail : List Event}
    (h : writeEvents a r d = e :: mid ++ e' :: tail) : e'.insideWrite = true := by
  have hrest : [.write r, .write d, .endTx] = mid ++ e' :: tail := (List.cons.inj h).2
  have hmem : e' ∈ [.write r, .write d, .endTx] := hrest ▸ List.mem_append_right mid List.mem_cons_self
  simp only [List.mem_cons, List.not_mem_nil, or_false] at hmem
  rcases hmem with rfl | rfl | rfl <;> rfl

/-- A one-byte write in a trace followed by events that start outside a transaction lies wholly in one of the two. -/
theorem write_in_append {xs ys pre post : List Event} {a r d : Byte} (hys : startsOutside ys)
    (h : xs ++ ys = pre ++ writeEvents a r d ++ post) :
    (∃ mid, xs = pre ++ writeEvents a r d ++ mid ∧ post = mid ++ ys) ∨
      ∃ mid, pre = xs ++ mid ∧ ys = mid ++ writeEvents a r d ++ post := by
  rcases List.append_eq_append_iff.mp h with ⟨tail, hwrite, rfl⟩ | ⟨mid, hxs, hpost⟩
  · rcases List.append_eq_append_iff.mp hwrite with ⟨mid, rfl, hcut⟩ | ⟨mid, hpre, rfl⟩
    · cases mid with
      | nil => exact .inr ⟨[], by simp only [List.append_nil], congrArg (· ++ post) hcut.symm⟩
      | cons e mid =>
        cases tail with
        | nil => exact .inl ⟨[], by simp only [hcut, List.append_nil], rfl⟩
        | cons e' tail =>
          exact absurd (hys e' rfl) (by rw [insideWrite_of_write_eq hcut]; decide)
    · exact .inr ⟨mid, hpre, rfl⟩
  · exact .inl ⟨mid, hxs, hpost⟩

/-- A one-byte write in a trace is one of its write transactions (R26, R37). -/
theorem byteWrite_mem_regWrites (pre post : List Event) (a r d : Byte) :
    byteWrite a r d ∈ regWrites (pre ++ writeEvents a r d ++ post) := by
  have hwrite : regWrites (writeEvents a r d ++ post) = byteWrite a r d :: regWrites post := rfl
  rw [List.append_assoc, regWrites, regWritesFrom_append, writeEvents, List.cons_append, regWritesFrom_beginTx]
  exact List.mem_append_right _ (hwrite ▸ List.mem_cons_self)

theorem ne_of_notMem_regWrites {tr pre post : List Event} {a r d : Byte} (h : byteWrite a r d ∉ regWrites tr) :
    tr ≠ pre ++ writeEvents a r d ++ post := by
  rintro rfl
  exact h (byteWrite_mem_regWrites pre post a r d)

/-- A one-byte write occurs in another only as the whole of it. -/
theorem write_in_write {pre post : List Event} {a r d a' r' d' : Byte}
    (h : writeEvents a r d = pre ++ writeEvents a' r' d' ++ post) : pre = [] ∧ post = [] ∧ a' = a ∧ d' = d := by
  have hlen := congrArg List.length h
  simp only [writeEvents, List.length_append, List.length_cons, List.length_nil] at hlen
  have hpre : pre = [] := List.eq_nil_of_length_eq_zero (by omega)
  have hpost : post = [] := List.eq_nil_of_length_eq_zero (by omega)
  subst hpre hpost
  cases h
  exact ⟨rfl, rfl, rfl, rfl⟩

theorem startsOutside_cons {e : Event} (h : e.insideWrite = false) (es : List Event) : startsOutside (e :: es) := by
  rintro _ ⟨⟩
  exact h

theorem startsOutside_writeEvents (a r d : Byte) (es : List Event) : startsOutside (writeEvents a r d ++ es) :=
  startsOutside_cons rfl _

/-! ### Bracketed event lists -/

/-- Events with no prescale write among their transactions are bracketed. -/
theorem bracketed_of_notMem {tr : List Event} (h : ∀ a d, byteWrite a regPrescale d ∉ regWrites tr) :
    Bracketed tr := fun _ _ a d htr => absurd htr (ne_of_notMem_regWrites (h a d))

/-- Bracketing is kept by appending bracketed events that start outside a transaction. -/
theorem Bracketed.append {xs ys : List Event} (hxs : Bracketed xs) (hys : Bracketed ys) (hstart : startsOutside ys) :
    Bracketed (xs ++ ys) := by
  intro pre post a d h
  rcases write_in_append hstart h with ⟨mid, hin, rfl⟩ | ⟨mid, rfl, hin⟩
  · obtain ⟨haddr, hlow, hhigh, hbefore, after, rfl⟩ := hxs pre mid a d hin
    exact ⟨haddr, hlow, hhigh, hbefore, after ++ ys, by rw [List.append_assoc]⟩
  · obtain ⟨haddr, hlow, hhigh, ⟨before, us, hus, rfl⟩, hafter⟩ := hys mid post a d hin
    exact ⟨haddr, hlow, hhigh, ⟨xs ++ before, us, hus, by simp only [List.append_assoc]⟩, hafter⟩

/-- A mode-1 write and the delay after it, as on each side of the prescale write (R57, R60). -/
def mode1ThenDelay (v : Byte) (us : Nat) : List Event := writeEvents 0x40 0x00 v ++ [.wait us]

theorem programEvents_eq (p : Byte) : programEvents p =
    mode1ThenDelay mode1Sleep settle1Us ++ (writeEvents 0x40 0xFE p ++ mode1ThenDelay mode1Normal settle2Us) := rfl

theorem prescale_notMem_mode1ThenDelay (v : Byte) (us : Nat) (a d : Byte) :
    byteWrite a 0xFE d ∉ regWrites (mode1ThenDelay v us) := by
  have hwrites : regWrites (mode1ThenDelay v us) = [byteWrite 0x40 0x00 v] := rfl
  simp [hwrites, byteWrite]

/-- The sleep/wake sequence has one prescale write, and brackets it (R57, R60). -/
theorem bracketed_programEvents {p : Byte} (hlow : 4 ≤ p.toNat) (hhigh : p.toNat ≤ 254) :
    Bracketed (programEvents p) := by
  intro pre post a d h
  rw [programEvents_eq] at h
  rcases write_in_append (startsOutside_writeEvents _ _ _ _) h with ⟨mid, hin, -⟩ | ⟨mid, hpre, hrest⟩
  · exact absurd hin (ne_of_notMem_regWrites (prescale_notMem_mode1ThenDelay _ _ a d))
  rcases write_in_append (startsOutside_writeEvents _ _ _ _) hrest with ⟨mid', hin, hpost⟩ | ⟨mid', -, hin⟩
  · obtain ⟨rfl, rfl, rfl, rfl⟩ := write_in_write hin
    exact ⟨rfl, hlow, hhigh, ⟨[], settle1Us, le_rfl, by rw [hpre]; rfl⟩, [], by rw [hpost]; rfl⟩
  · exact absurd hin (ne_of_notMem_regWrites (prescale_notMem_mode1ThenDelay _ _ a d))

/-! ### The events of every command -/

/-- A channel write carries four bytes, a prescale write one (R54, R65). -/
theorem byteWrite_ne_channelWrite (a r d a' r' : Byte) (v : Nat) :
    byteWrite a r d ≠ { addr := a', reg := r', data := payload v } := nofun

theorem byteWrite_notMem_clearWrites (a r d : Byte) : byteWrite a r d ∉ (List.range 16).map clearWrite := by
  intro h
  obtain ⟨c, -, hc⟩ := List.mem_map.mp h
  exact byteWrite_ne_channelWrite a r d addrDefault (chBase c) 0 hc.symm

/-- Only `BEGIN` and a positive `SETFREQ` write a prescale (R57, R58, R70). -/
theorem prescale_notMem_writesOf {i : Instr} (hbegin : i ≠ .begin)
    (hfreq : ∀ freq, i = .setfreq freq → freq ≤ 0) (a d : Byte) : byteWrite a regPrescale d ∉ writesOf i := by
  cases i with
  | begin => exact absurd rfl hbegin
  | setmode sel val =>
    rw [writesOf]
    split_ifs <;> simp [byteWrite, regPrescale, regMode1, regMode2]
  | setfreq freq =>
    rw [writesOf, if_pos (hfreq freq rfl)]
    exact byteWrite_notMem_clearWrites a regPrescale d
  | reset => simp [writesOf, byteWrite, regPrescale, regMode1]
  | clear => exact byteWrite_notMem_clearWrites a regPrescale d
  | awrite addr chan value => exact List.mem_singleton.not.mpr (byteWrite_ne_channelWrite _ _ _ _ _ _)
  | read addr reg => simp [writesOf, byteWrite]

/-- The events of `BEGIN` before it programs the maximum frequency (R70). -/
def setupEvents : List Event :=
  .setClock Config.busClockHz :: (writeEvents 0x40 0x00 mode1Normal ++ writeEvents 0x40 0x01 mode2Default)

theorem eventsOf_beginPlan (b : Byte) :
    eventsOf beginPlan.ops b = setupEvents ++ programEvents (BitVec.ofNat 8 (prescale (fMax * rawPerHz))) := rfl

theorem prescale_notMem_setupEvents (a d : Byte) : byteWrite a regPrescale d ∉ regWrites setupEvents := by
  have hwrites : regWrites setupEvents = [byteWrite 0x40 0x00 mode1Normal, byteWrite 0x40 0x01 mode2Default] := rfl
  simp [hwrites, byteWrite, regPrescale]

theorem bracketed_begin (b : Byte) : Bracketed (eventsOf beginPlan.ops b) := by
  rw [eventsOf_beginPlan]
  exact (bracketed_of_notMem prescale_notMem_setupEvents).append
    (bracketed_programEvents (by decide) (by decide)) (startsOutside_cons rfl _)

/-- The events of every command are bracketed (R60). -/
theorem bracketed_planOf (i : Instr) (st : Stage) (b : Byte) : Bracketed (eventsOf (planOf i st).ops b) := by
  by_cases hbegin : i = .begin
  · subst hbegin
    exact bracketed_begin b
  by_cases hfreq : ∃ freq, i = .setfreq freq ∧ 0 < freq
  · obtain ⟨freq, rfl, hpos⟩ := hfreq
    obtain ⟨hlow, hhigh, hbyte⟩ := prescaleRange.1 freq hpos
    rw [planOf, setfreqPlan_of_pos hpos, okPlan, eventsOf_freqProgram]
    exact bracketed_programEvents (hlow.trans_eq hbyte.symm) (hbyte.trans_le hhigh)
  · refine bracketed_of_notMem ?_
    rw [regWrites_planOf]
    exact prescale_notMem_writesOf hbegin fun freq hi => not_lt.mp fun hpos => hfreq ⟨freq, hi, hpos⟩

/-- Every command's events begin with a `Begin` or a `SetClock`, or there are none (R76). -/
theorem startsOutside_planOf (i : Instr) (st : Stage) (b : Byte) : startsOutside (eventsOf (planOf i st).ops b) := by
  cases i with
  | setmode sel val =>
    simp only [planOf, setmodePlan]
    split_ifs
    · exact startsOutside_cons rfl _
    · exact startsOutside_cons rfl _
    · nofun
  | setfreq freq =>
    rcases lt_or_ge 0 freq with h | h
    · rw [planOf, setfreqPlan_of_pos h]; exact startsOutside_cons rfl _
    · rw [planOf, setfreqPlan_of_nonpos h]; exact startsOutside_cons rfl _
  | _ => exact startsOutside_cons rfl _

/-- Settles O56: a step appends the events of one word, which start outside a transaction and are bracketed. -/
theorem prescaleWritesBracketed : Obligations.PrescaleWritesBracketed := by
  intro s t hready hacc hs ht
  cases hhost : s.host with
  | nil =>
    rw [step_of_ready_nil hready hhost] at ht
    cases ht
    exact hs
  | cons w rest =>
    obtain ⟨b, htrace⟩ := trace_of_step hready hacc hhost ht
    rw [htrace s.stage]
    cases hd : decode w with
    | instr i =>
      rw [planOfWord, hd]
      exact hs.append (bracketed_planOf i s.stage b) (startsOutside_planOf i s.stage b)
    | illegal op =>
      rw [planOfWord, hd]
      exact (List.append_nil s.trace).symm ▸ hs

end Sys2Proof.Machine

/-! The duty encoder family (41_duty_encoder.md): AWRITE completes (O24), the saturation of its operands (O27, O28), the
edge cases and the invariants of a payload (O29, O33), and the channel table (O30). -/

namespace Sys2Proof.Machine

/-! ### AWRITE -/

/-- The plan of an `AWRITE` is the event list of R65, for the nearest channel and the saturated value. -/
theorem eventsOf_awritePlan (addr : Byte) (chan value : Int) (b : Byte) :
    eventsOf (awritePlan addr chan value).ops b = awriteEvents addr chan value := by
  rw [awriteEvents, ← chBase_clampChannel, ← payload_clampValue]
  rfl

/-- Settles O24: the plan reads nothing, writes no stage and closes its transaction, so it completes with its events. -/
theorem awriteWritesChannel : Obligations.AwriteWritesChannel := by
  intro s addr chan value hacc
  refine ⟨_, exec_eq_runPlan _ s, ?_⟩
  rw [← eventsOf_awritePlan addr chan value 0]
  exact runPlan_completes (awritePlan addr chan value) s 0 hacc rfl rfl rfl

/-- `AWRITE` depends on its two integer operands only through their clamps (R61, R62, R66). -/
theorem exec_awrite_congr {chan chan' value value' : Int} (hchan : clampChannel chan = clampChannel chan')
    (hvalue : clampValue value = clampValue value') (addr : Byte) (s : State) :
    exec (.awrite addr chan value) s = exec (.awrite addr chan' value') s := by
  rw [exec_eq_runPlan, exec_eq_runPlan, planOf, planOf, awritePlan, awritePlan, hchan, hvalue]

/-! ### The clamps -/

theorem clampChannel_of_ge {chan : Int} (h : 15 ≤ chan) : clampChannel chan = 15 := by
  rw [clampChannel_cases]; split_ifs <;> omega

theorem clampChannel_of_nonpos {chan : Int} (h : chan ≤ 0) : clampChannel chan = 0 := by
  rw [clampChannel_cases]; split_ifs <;> omega

theorem clampChannel_of_mem {chan : Int} (hlow : 0 ≤ chan) (hhigh : chan ≤ 15) : (clampChannel chan : Int) = chan := by
  rw [clampChannel_cases]; split_ifs <;> omega

theorem clampValue_of_ge {value : Int} (h : 4095 ≤ value) : clampValue value = 4095 := by
  rw [clampValue_cases]; split_ifs <;> omega

theorem clampValue_of_nonpos {value : Int} (h : value ≤ 0) : clampValue value = 0 := by
  rw [clampValue_cases]; split_ifs <;> omega

theorem clampValue_of_mem {value : Int} (hlow : 0 ≤ value) (hhigh : value ≤ 4095) :
    (clampValue value : Int) = value := by
  rw [clampValue_cases]; split_ifs <;> omega

/-- Settles O27: outside 0..15 the clamp is that of the nearest bound. -/
theorem channelSaturates : Obligations.ChannelSaturates := by
  intro s addr chan value
  refine ⟨fun hgt => exec_awrite_congr ?_ rfl addr s, fun hlt => exec_awrite_congr ?_ rfl addr s, clampChannel_of_mem⟩
  · exact clampChannel_of_ge hgt.le
  · exact clampChannel_of_nonpos hlt.le

/-- The full-on payload (R49, R63). -/
theorem payload_full : payload 4095 = [0x00, 0x10, 0x00, 0x00] := rfl

/-- The full-off payload (R49, R63). -/
theorem payload_off : payload 0 = [0x00, 0x00, 0x00, 0x10] := rfl

/-- Settles O28: at and beyond each bound the clamp is the bound, whose payload is an edge case. -/
theorem valueSaturates : Obligations.ValueSaturates := by
  intro s addr chan value
  refine ⟨fun hge => ?_, fun hle => ?_, clampValue_of_mem⟩
  · have hclamp := clampValue_of_ge hge
    exact ⟨exec_awrite_congr rfl hclamp addr s, hclamp ▸ payload_full⟩
  · have hclamp := clampValue_of_nonpos hle
    exact ⟨exec_awrite_congr rfl hclamp addr s, hclamp ▸ payload_off⟩

/-! ### The edge cases and the payload -/

/-- Settles O29: the two edge cases are evaluated, every value between them is `fields_of_inner`. -/
theorem edgeCaseFields : Obligations.EdgeCaseFields :=
  ⟨rfl, rfl, fun v hlow hhigh => fields_of_inner (by omega) (by omega)⟩

/-- A clamped value is one of the two edge cases or lies between them (R63). -/
theorem edge_or_inner {v : Nat} (h : v ≤ 4095) : v = 4095 ∨ v = 0 ∨ (v ≠ 0 ∧ v < 4095) := by omega

/-- The clamped value a payload stands for, the inverse of `payload` (R68). -/
def valueOfPayload : List Byte → Nat
  | [_, p1, p2, p3] => if p1 = 0x10 then 4095 else if p3 = 0x10 then 0 else p2.toNat + 256 * p3.toNat
  | _ => 0

/-- The high byte of a value between the edge cases holds its upper bits whole (R48, R63). -/
theorem toNat_ofNat_div {v : Nat} (h : v < 4095) : (BitVec.ofNat 8 (v / 256)).toNat = v / 256 := by
  rw [BitVec.toNat_ofNat, Nat.mod_eq_of_lt (by omega)]

/-- The low byte of a value holds its eight lower bits (R48). -/
theorem toNat_ofNat_mod (v : Nat) : (BitVec.ofNat 8 (v % 256)).toNat = v % 256 := by
  rw [BitVec.toNat_ofNat, Nat.mod_mod]

/-- The high byte of a value between the edge cases has bit 4 clear (R68). -/
theorem ofNat_div_ne {v : Nat} (h : v < 4095) : BitVec.ofNat 8 (v / 256) ≠ 0x10 := fun heq => by
  have hhigh : v / 256 = 16 := (toNat_ofNat_div h).symm.trans (congrArg BitVec.toNat heq)
  omega

/-- A value between the edge cases never leaves the off-field blank, as full-on does (R68). -/
theorem not_ofNat_bytes_zero {v : Nat} (h0 : v ≠ 0) (h1 : v < 4095) :
    ¬ (BitVec.ofNat 8 (v % 256) = 0 ∧ BitVec.ofNat 8 (v / 256) = 0) := by
  rintro ⟨hl, hh⟩
  have hlow : v % 256 = 0 := (toNat_ofNat_mod v).symm.trans (congrArg BitVec.toNat hl)
  have hhigh : v / 256 = 0 := (toNat_ofNat_div h1).symm.trans (congrArg BitVec.toNat hh)
  omega

theorem valueOfPayload_payload {v : Nat} (h : v ≤ 4095) : valueOfPayload (payload v) = v := by
  obtain rfl | rfl | ⟨h0, h1⟩ := edge_or_inner h
  · rfl
  · rfl
  · have hp1 : (0x00 : Byte) ≠ 0x10 := by decide
    rw [payload_of_inner h0 h1, valueOfPayload, if_neg hp1, if_neg (ofNat_div_ne h1), toNat_ofNat_mod,
      toNat_ofNat_div h1, Nat.mod_add_div]

/-- Settles O33: the bytes of each of the three shapes, and `valueOfPayload` recovers the value from them. -/
theorem payloadInvariants : Obligations.PayloadInvariants := by
  refine ⟨fun v hv => ?_, fun v hv u hu h => ?_⟩
  · obtain rfl | rfl | ⟨h0, h1⟩ := edge_or_inner hv
    · exact ⟨0x10, 0x00, 0x00, payload_full, by decide⟩
    · exact ⟨0x00, 0x00, 0x10, payload_off, by decide⟩
    · have hlow := toNat_ofNat_mod v
      have hhigh := toNat_ofNat_div h1
      exact ⟨0x00, BitVec.ofNat 8 (v % 256), BitVec.ofNat 8 (v / 256), payload_of_inner h0 h1, .inl rfl, by omega,
        iff_of_false (by decide) h1.ne, iff_of_false h1.ne (not_ofNat_bytes_zero h0 h1),
        iff_of_false (ofNat_div_ne h1) h0, fun h => absurd h h0, fun _ _ => ⟨by omega, by omega⟩⟩
  · rw [← valueOfPayload_payload hv, h, valueOfPayload_payload hu]

/-! ### The channel table -/

/-- The base of a channel of the sixteen does not wrap (R64). -/
theorem chBase_toNat {c : Nat} (hc : c < 16) : (chBase c).toNat = 0x06 + 4 * c := by
  rw [chBase, BitVec.toNat_ofNat, Nat.mod_eq_of_lt (by omega)]

/-- The second event of each channel write of `CLEAR` writes the channel's base (R64, R73). -/
theorem clearPlan_base : ∀ c < 16, (clearPlan.ops[7 * c + 1]?).map (fun m => m.op) = some (.write (chBase c)) := by
  decide

/-- Settles O30: the lookups are those of the clamped channel and of the sixteen channel writes. -/
theorem channelBaseTable : Obligations.ChannelBaseTable :=
  ⟨rfl, fun _ => chBase_toNat, clampChannel_lt, fun _ _ _ _ => rfl,
    fun _ => clearPlan_base, fun st _ hfreq => setfreqPlan_of_nonpos hfreq st⟩

end Sys2Proof.Machine

/-! The sequencer family (42_sequencer.md): BEGIN, SETMODE, RESET and CLEAR complete (O16, O17, O22, O23), and a list of
command words runs to its end (O51). -/

namespace Sys2Proof.Machine

/-! ### The commands of the facade -/

/-- The prescale byte of the maximum frequency, which `BEGIN` programs (R70). -/
theorem prescale_fMax : BitVec.ofNat 8 (prescale (fMax * rawPerHz)) = 4 := by decide

theorem eventsOf_beginPlan_spec (b : Byte) :
    eventsOf beginPlan.ops b = .setClock Config.busClockHz :: (writeEvents 0x40 0x00 mode1Normal
      ++ writeEvents 0x40 0x01 mode2Default ++ programEvents 4) := by
  rw [eventsOf_beginPlan, prescale_fMax]; rfl

/-- Settles O16: the plan of `BEGIN` completes, and its last stage write is Running. -/
theorem beginCompletes : Obligations.BeginCompletes := by
  intro s hacc
  refine ⟨_, exec_eq_runPlan .begin s, ?_⟩
  rw [← eventsOf_beginPlan_spec 0]
  exact runPlan_completes beginPlan s 0 hacc rfl rfl rfl

/-- A plan of one byte written to one register completes with the four events of `W(a, r, d)` (R26, R76). -/
theorem runPlan_regWrite_completes (a r d : Byte) {s : State} (h : s.accepts 4) :
    Completes s (runPlan (okPlan (regWrite a r [d])) s) (writeEvents a r d) s.stage .ok 0 ∧
      ReadsNothing s (runPlan (okPlan (regWrite a r [d])) s) :=
  runPlan_completes (okPlan (regWrite a r [d])) s 0 h rfl rfl rfl

/-- Settles O17: each of the two selectors has a plan of one byte written. -/
theorem setmodeWritesModeRegister : Obligations.SetmodeWritesModeRegister := by
  intro s sel val hsel hacc
  refine ⟨_, exec_eq_runPlan (.setmode sel val) s, ?_⟩
  rcases hsel with rfl | rfl
  · exact runPlan_regWrite_completes addrDefault regMode1 val hacc
  · exact runPlan_regWrite_completes addrDefault regMode2 val hacc

/-- Settles O22: the one broadcast write completes, and its `End` writes Uninitialized. -/
theorem resetBroadcasts : Obligations.ResetBroadcasts := fun s hacc =>
  ⟨_, exec_eq_runPlan .reset s, runPlan_completes resetPlan s 0 hacc rfl rfl rfl⟩

/-- Settles O23: `CLEAR` is its plan, which completes. -/
theorem clearWritesAllChannels : Obligations.ClearWritesAllChannels := fun s hacc =>
  ⟨_, exec_eq_runPlan .clear s, runPlan_clearPlan_completes hacc⟩

/-! ### The end of a list of command words -/

/-- A ready unit whose transport accepts every event gives one response to the next word, legal or not (R78, R81). -/
theorem responses_length_of_step {s t : State} {w : Word} {rest : List Word} (h : s.ready) (hacc : s.acceptsAll)
    (hh : s.host = w :: rest) (ht : step s = .next t) : t.responses.length = s.responses.length + 1 := by
  have hacc' : (acceptWord w rest s).acceptsAll := hacc
  rw [step_of_ready h hh, runPlan_of_acceptsAll _ hacc'] at ht
  cases ht
  rw [respond_responses, completeAll_responses, List.length_append]; rfl

theorem endState_of_ready {s : State} (h : s.ready) (hh : s.host = []) :
    s.endState = some (s.trace, s.responses, s.stage) := by
  simp [State.endState, h.2, hh]

/-- As many steps as the host has words leave the unit ready, with no word left and one response more for each. -/
theorem run_host_responses {s : State} (h : s.ready) (hacc : s.acceptsAll) :
    ∃ t, Host.Core.run Sys2Proof.core s.host.length s = .next t ∧ t.ready ∧ t.host = [] ∧
      t.responses.length = s.responses.length + s.host.length := by
  induction hh : s.host generalizing s with
  | nil => exact ⟨s, rfl, h, hh, rfl⟩
  | cons w rest ih =>
    obtain ⟨q, hstep, hq, hqacc, hqhost, -⟩ := step_of_acceptsAll h hacc hh
    obtain ⟨t, hrun, ht, hthost, hlen⟩ := ih hq hqacc hqhost
    refine ⟨t, (run_succ_of_step (M := Sys2Proof.core) hstep rest.length).trans hrun, ht, hthost, ?_⟩
    rw [hlen, responses_length_of_step h hacc hh hstep, List.length_cons]
    omega

/-- Settles O51, by induction on the words; a ready unit with no word left is at its end state (R107). -/
theorem commandListRunsToItsEnd : Obligations.CommandListRunsToItsEnd := by
  intro s h hacc
  obtain ⟨t, hrun, ht, hthost, hlen⟩ := run_host_responses h hacc
  exact ⟨t, hrun, ht, hthost, hlen, endState_of_ready ht hthost⟩

end Sys2Proof.Machine

/-! The exceptions family (60_exceptions.md): the two errors, an illegal opcode (O11) and an invalid selector (O18), both
of which run the error plan; and a transport that stops accepting (O48, O49). O48 follows the events of the command to
the one it stalls on, where the unit is stuck. -/

namespace Sys2Proof.Machine

/-! ### What an error does -/

/-- An error plan has no event: it goes from acceptance to the response, whatever the transport does (R86). -/
theorem runPlan_errorPlan (st : Status) (s : State) :
    runPlan (errorPlan st) s = respond (errorPlan st) s.startCommand := rfl

/-- Settles O11: the plan of an illegal word is the error plan of ILLEGAL, whose response follows at once. -/
theorem illegalOpcodeResponds : Obligations.IllegalOpcodeResponds := by
  intro s w rest op h hh hd
  have hplan : planOfWord w s.stage = errorPlan .illegal := by rw [planOfWord, hd]; rfl
  have hstep := step_of_ready h hh
  rw [hplan, runPlan_errorPlan] at hstep
  exact ⟨_, hstep, rfl, rfl, rfl, rfl, rfl, rfl, rfl, rfl, h.1, rfl, rfl, rfl, rfl, rfl, rfl, rfl⟩

/-! ### The invalid selector -/

theorem exec_setmode_of_invalid {sel val : Byte} (h1 : sel ≠ 1) (h2 : sel ≠ 2) (s : State) :
    exec (.setmode sel val) s = .next (runPlan (errorPlan .fail) s) := by
  rw [exec_eq_runPlan, planOf, setmodePlan_of_invalid h1 h2]

/-- FAIL is the status of the invalid selector and of nothing else (R80). -/
theorem planOf_status_eq_fail_iff (i : Instr) (st : Stage) :
    (planOf i st).status = .fail ↔ ∃ sel val, i = .setmode sel val ∧ sel ≠ 1 ∧ sel ≠ 2 := by
  cases i with
  | setmode sel val =>
    simp only [planOf, setmodePlan, Instr.setmode.injEq]
    split_ifs with h1 h2
    · exact iff_of_false nofun (by rintro ⟨_, _, ⟨rfl, -⟩, h, -⟩; exact h h1)
    · exact iff_of_false nofun (by rintro ⟨_, _, ⟨rfl, -⟩, -, h⟩; exact h h2)
    · exact iff_of_true rfl ⟨sel, val, ⟨rfl, rfl⟩, h1, h2⟩
  | setfreq freq =>
    have hok : (setfreqPlan freq st).status = .ok := by
      rcases lt_or_ge 0 freq with h | h
      · rw [setfreqPlan_of_pos h]; rfl
      · rw [setfreqPlan_of_nonpos h]; rfl
    rw [planOf, hok]
    exact iff_of_false nofun nofun
  | _ => exact iff_of_false nofun nofun

/-- A command that responds does so with the status of its plan, whatever the transport does (R47, R92). -/
theorem status_of_runPlan {p : Plan} {s : State} {r : Response}
    (h : (runPlan p s).responses = s.responses ++ [r]) : r.status = p.status := by
  rcases perform_cases p p.ops s.startCommand with hall | ⟨done, m, rest, -, hstall, -⟩
  · rw [runPlan, hall, respond_responses, completeAll_responses] at h
    obtain rfl := List.singleton_inj.mp (List.append_cancel_left h)
    rfl
  · rw [runPlan, hstall, completeAll_responses] at h
    exact absurd h.symm (by simp)

/-- A command whose events the transport accepts ends in the stage its events write (R76). -/
theorem runPlan_stage (p : Plan) {s : State} (h : s.acceptsAll) :
    (runPlan p s).stage = stageAfterOps p.ops s.stage := by
  rw [runPlan_of_acceptsAll p h, respond_stage, completeAll_stage]; rfl

/-- Settles O18: the invalid selector runs the error plan; FAIL is that plan's status alone; and it leaves the stage
and the transport as they were, so the next command has the same plan and, by
`operandsDetermineEvents`, the same events and response. -/
theorem invalidSelectorFails : Obligations.InvalidSelectorFails := by
  refine ⟨?_, ?_, ?_⟩
  · intro s sel val h1 h2
    exact ⟨_, exec_setmode_of_invalid h1 h2 s, runPlan_completes (errorPlan .fail) s 0 (accepts_zero s) rfl rfl rfl⟩
  · intro i s t r ht hresp
    rw [exec_eq_runPlan] at ht
    cases ht
    rw [status_of_runPlan hresp, planOf_status_eq_fail_iff]
  · intro s t sel val i hacc h1 h2 ht hbyte
    rw [exec_setmode_of_invalid h1 h2, runPlan_errorPlan] at ht
    cases ht
    have hacc' : (respond (errorPlan .fail) s.startCommand).acceptsAll := hacc
    have hu := exec_eq_runPlan i s
    have hv := exec_eq_runPlan i (respond (errorPlan .fail) s.startCommand)
    obtain ⟨evs, r, htrace, htrace', hresp, hresp'⟩ := operandsDetermineEvents i _ _ _ _ hacc hacc' hbyte hu hv
    refine ⟨_, _, evs, r, hu, hv, htrace, htrace', hresp, hresp', ?_⟩
    rw [runPlan_stage _ hacc, runPlan_stage _ hacc']; rfl

/-! ### A stuck unit -/

/-- A stuck unit stands at an event that the transport stalls (R92). -/
theorem stuck_iff {s : State} :
    s.stuck = true ↔ s.busy = true ∧ ∃ m rest, s.remaining = m :: rest ∧ s.stalledOn m = true := by
  simp only [State.stuck, State.tValid, Bool.and_eq_true, decide_eq_true_eq, Option.isSome_iff_exists,
    presented_eq_some_iff, stalledOn_iff]
  constructor
  · rintro ⟨⟨_, hb, hbus, m, rest, hrem, rfl⟩, hready⟩
    exact ⟨hb, m, rest, hrem, hbus, hready⟩
  · rintro ⟨hb, m, rest, hrem, hbus, hready⟩
    exact ⟨⟨m.op, hb, hbus, m, rest, hrem, rfl⟩, hready⟩

/-- Settles O49: both steps of a busy unit stop at the event it stands at when the transport stalls that event. -/
theorem stuckUnitDoesNotMove : Obligations.StuckUnitDoesNotMove := by
  intro s hr hstuck
  obtain ⟨hb, m, rest, hrem, hstall⟩ := stuck_iff.mp hstuck
  have hbus : m.op.onBus = true := ((stalledOn_iff s m).mp hstall).1
  constructor
  · rw [step_of_busy hr hb, resume, hrem, perform_cons_stall hstall]
  · rw [tick_of_busy hr hb, busyTick_onBus hrem hbus, if_pos hstall]

/-! ### How a command comes to stall -/

/-- A transport that accepts fewer events than a list hands over stalls the command on one of them (R92). -/
theorem perform_of_tReady_lt (p : Plan) {ops : List MicroOp} {s : State} {k : Nat} (hk : s.tReady = some k)
    (hlt : k < busOps ops) :
    ∃ done m rest, ops = done ++ m :: rest ∧ perform p ops s = completeAll done s ∧
      (completeAll done s).stalledOn m = true := by
  induction ops generalizing s k with
  | nil => cases hlt
  | cons m ops ih =>
    cases hs : s.stalledOn m with
    | true => exact ⟨[], m, ops, rfl, perform_cons_stall hs, hs⟩
    | false =>
      have hready : (complete m s).tReady = some (k - m.op.onBus.toNat) := by
        rw [complete_spec]
        cases m.op.onBus <;> simp [hk]
      have htaken : m.op.onBus.toNat ≤ k := by
        cases hb : m.op.onBus with
        | false => exact Nat.zero_le k
        | true =>
          refine Nat.pos_of_ne_zero fun h0 => ?_
          rw [(stalledOn_iff s m).mpr ⟨hb, h0 ▸ hk⟩] at hs
          cases hs
      have hlt' : k - m.op.onBus.toNat < busOps ops := by
        rw [busOps_cons] at hlt
        omega
      obtain ⟨done, x, rest, rfl, hperform, hstall⟩ := ih hready hlt'
      exact ⟨m :: done, x, rest, rfl, (perform_cons_go hs).trans hperform, hstall⟩

@[simp] theorem completeAll_plan (ops : List MicroOp) (s : State) : (completeAll ops s).plan = s.plan :=
  completeAll_keeps State.plan complete_plan ops s

@[simp] theorem completeAll_rspValid (ops : List MicroOp) (s : State) : (completeAll ops s).rspValid = s.rspValid :=
  completeAll_keeps State.rspValid complete_rspValid ops s

/-- The events that complete are those the position counts (R14; log 10). -/
theorem atEvent_completeAll {ops rest : List MicroOp} {s : State} {k : Nat} (h : AtEvent s k)
    (hd : s.plan.ops.drop k = ops ++ rest) : AtEvent (completeAll ops s) (k + ops.length) := by
  induction ops generalizing s k with
  | nil => exact h
  | cons m ops ih =>
    have hd' : (complete m s).plan.ops.drop (k + 1) = ops ++ rest := by
      rw [complete_plan]; exact drop_succ_of_drop_eq_cons hd
    have := ih (atEvent_complete h hd) hd'
    rwa [Nat.add_right_comm, Nat.add_assoc] at this

/-- A unit that has run its command up to an event the transport stalls is stuck at that event (R92). -/
theorem stuck_completeAll {done rest : List MicroOp} {m : MicroOp} {s : State} (hb : s.busy = true)
    (h : AtEvent s 0) (hops : s.plan.ops = done ++ m :: rest) (hstall : (completeAll done s).stalledOn m = true) :
    (completeAll done s).stuck = true := by
  have hrem : (completeAll done s).remaining = m :: rest := by
    rw [(atEvent_completeAll h hops).remaining, completeAll_plan, hops, Nat.zero_add, List.drop_left]
  exact stuck_iff.mpr ⟨by rwa [completeAll_busy], m, rest, hrem, hstall⟩

/-- Each event of a list adds one to the trace (R8). -/
theorem completeAll_trace (ops : List MicroOp) (s : State) :
    ∃ evs, (completeAll ops s).trace = s.trace ++ evs ∧ evs.length = ops.length := by
  induction ops generalizing s with
  | nil => exact ⟨[], (List.append_nil s.trace).symm, rfl⟩
  | cons m ops ih =>
    obtain ⟨evs, htrace, hlen⟩ := ih (complete m s)
    refine ⟨m.op.event s.nextAnswer :: evs, ?_, congrArg (· + 1) hlen⟩
    rw [completeAll_cons, htrace, complete_trace, List.append_assoc]; rfl

/-- The first events of a command leave the first part of its trace (R76). -/
theorem completeAll_prefix_trace {i : Instr} {st : Stage} {done rest : List MicroOp}
    (hops : (planOf i st).ops = done ++ rest) (s : State) :
    (completeAll done s).trace =
      s.trace ++ (eventsOf (planOf i st).ops s.nextAnswer).take done.length := by
  obtain ⟨evs, hdone, hlen⟩ := completeAll_trace done s
  obtain ⟨evs', hrest, -⟩ := completeAll_trace rest (completeAll done s)
  have hall : s.trace ++ (evs ++ evs') = s.trace ++ eventsOf (planOf i st).ops s.nextAnswer := by
    calc s.trace ++ (evs ++ evs')
        = (completeAll rest (completeAll done s)).trace := by rw [hrest, hdone, List.append_assoc]
      _ = (completeAll (planOf i st).ops s).trace := by rw [hops, completeAll_append]
      _ = s.trace ++ eventsOf (planOf i st).ops s.nextAnswer := completeAll_planOf_trace i st s
  rw [hdone, ← List.append_cancel_left hall, ← hlen, List.take_left]

/-- Settles O48: the command stops at the event the transport stalls, with the events before it in the trace, and a
unit stuck there does not move (`stuckUnitDoesNotMove`). -/
theorem stalledTransportSticks : Obligations.StalledTransportSticks := by
  intro s w rest i k h hh hd hk hlt
  have hplan : planOfWord w s.stage = planOf i s.stage := by rw [planOfWord, hd]
  have hready : (acceptWord w rest s).startCommand.tReady = some k := hk
  rw [busCount_eventsOf] at hlt
  obtain ⟨done, m, tail, hops, hperform, hstall⟩ := perform_of_tReady_lt (planOf i s.stage) hready hlt
  have hstep := step_of_ready h hh
  rw [hplan, runPlan, hperform] at hstep
  have hr : (completeAll done (acceptWord w rest s).startCommand).resetIn = false := by
    rw [completeAll_resetIn]; exact h.1
  have hstuck := stuck_completeAll (done := done) (rest := tail) (s := (acceptWord w rest s).startCommand) rfl
    (startCommand_atEvent _) ((congrArg Plan.ops hplan).trans hops) hstall
  have hinside : done.length < (planOf i s.stage).ops.length := by simp [hops]
  refine ⟨_, hstep, ?_, ?_, ?_, ⟨_, done.length, hinside, completeAll_prefix_trace hops _⟩,
    stuckUnitDoesNotMove _ hr hstuck⟩
  · rw [completeAll_busy]; rfl
  · rw [completeAll_responses]; rfl
  · rw [completeAll_rspValid]; rfl

end Sys2Proof.Machine

/-! The reset and hazards family (70_reset_and_hazards.md): the reset line of an idle and of a busy unit (O9). -/

namespace Sys2Proof.Machine

/-- A busy unit refuses hardware reset (R103, U9). -/
theorem hardwareReset_of_busy {s : State} (hb : s.busy = true) : hardwareReset s = .refused .resetWhileBusy :=
  if_pos hb

/-- An idle unit is reset (R93). -/
theorem hardwareReset_of_idle {s : State} (hb : s.busy = false) : hardwareReset s = .next s.resetUnit := by
  simp [hardwareReset, hb]

/-- Settles O9: with the line asserted the step is `hardwareReset`, which `busy` decides; the state it gives is
`resetUnit`'s, whose definition writes out each field. -/
theorem hardwareReset_spec : Obligations.HardwareReset := by
  intro s hr
  rw [step_of_reset hr]
  constructor
  · exact hardwareReset_of_busy
  · intro hb
    exact ⟨s.resetUnit, hardwareReset_of_idle hb, rfl, rfl, rfl, rfl, rfl, rfl, rfl, rfl, rfl, rfl, rfl, rfl, rfl⟩

end Sys2Proof.Machine
